-- ==== Sys2Proof/Word.lean ====
section
/-! DEFINITION. The word types of the block. Widths are those of spec/00_scope.md R9. A
Sample is "a 16-bit signed integer" (R15): an `Int` that `sampleInRange` of WellFormed.lean bounds. -/

namespace Sys2Proof

/-- An instruction word (R90). -/
abbrev Word16 := BitVec 16

/-- A FIFO entry, a shift register, X, a register-interface word (R9). -/
abbrev Word32 := BitVec 32

/-- An instruction-memory word address, PC_BITS = 5 (R9, R22). -/
abbrev ImemAddr := BitVec 5

/-- A side-set value: bit 1 is word-select, bit 0 is bit-clock (R92). -/
abbrev SideSet := BitVec 2

/-- A byte offset into the 12-bit register space (R60). -/
abbrev Offset := BitVec 12

end Sys2Proof
end

