-- ==== Sys2Proof/Config.lean ====
section
/-! DEFINITION. The parameters of the step (spec/10_state.md R43, spec/00_scope.md R10): the values a model takes as
arguments. They stand in the state as a field no step writes, so that a statement over all states is a statement over
all parameters. The default values are a DESIGN CHOICE (log 5). -/

namespace Sys2Proof

/-- The pin binding of the three output lines (R9, R39). -/
structure PinBinding where
  data       : Nat
  bitClock   : Nat
  wordSelect : Nat
  deriving DecidableEq, Repr

/-- A program as the loader receives it: the words for addresses 0, 1, 2, … (origin 0, R98) and the three addresses it
writes to PROGCTRL (R104, R251). -/
structure Image where
  words      : List Word16
  entry      : ImemAddr
  wrapBottom : ImemAddr
  wrapTop    : ImemAddr
  deriving DecidableEq, Repr

/-- The open parameters of R10 and R43: FIFO_DEPTH, the pin binding, the producer's Waveform, the two frequencies the
divisor calculation takes, and the program the loader loads. -/
structure Params where
  fifoDepth    : Nat
  pins         : PinBinding
  wave         : List Int
  sysclkHz     : Nat
  sampleRateHz : Nat
  image        : Image
  deriving DecidableEq, Repr

/-- The fixed I2S microprogram of R250 with the loader's configuration for it (R251). -/
def Image.i2s : Image where
  words      := [0x7001#16, 0x1840#16, 0x6001#16, 0xE82E#16, 0x6001#16, 0x0844#16, 0x7001#16, 0xF82E#16]
  entry      := 7#5
  wrapBottom := 0#5
  wrapTop    := 7#5

/-- The parameters `State.reset` holds. The pins and the image are the spec's (R39, R250, R251); the spec leaves the
rest open, and the values here are those of its own examples: depth 2 and the waveform of S6, the two rates of S3
(DESIGN CHOICE, unsafe, log 5; no statement rests on them). -/
def Params.default : Params where
  fifoDepth    := 2
  pins         := { data := 15, bitClock := 13, wordSelect := 14 }
  wave         := [100, -100, 200, -200]
  sysclkHz     := 12000000
  sampleRateHz := 44100
  image        := Image.i2s

end Sys2Proof
end

