-- ==== Sys2Proof/Syntax.lean ====
section
/-! DEFINITION. The engine's instructions, one constructor per row of spec/opcode_table.json, and the source form of
the assembler (spec/30_encoding.md R103, R104). -/

namespace Sys2Proof

/-- An admitted instruction (R96). Every one carries a side-set value (R92); no other field varies. -/
inductive Instr where
  /-- `OUT PINS, 1` (R94, R125). -/
  | outPins1 (ss : SideSet)
  /-- `JMP X--, addr` (R95, R127). -/
  | jmpXDec (ss : SideSet) (addr : ImemAddr)
  /-- `SET X, imm` (R97, R128). -/
  | setX (ss : SideSet) (imm : BitVec 5)
  deriving DecidableEq, Repr

/-- The side-set field every instruction carries (R92). -/
def Instr.side : Instr → SideSet
  | .outPins1 ss => ss
  | .jmpXDec ss _ => ss
  | .setX ss _ => ss

/-- A jump target as the assembler reads it: a number or a label (R103). -/
inductive AsmTarget where
  | address (n : Nat)
  | label (name : List Char)
  deriving DecidableEq, Repr

/-- The operation of a source instruction, operands as written (R103). -/
inductive AsmOp where
  | out (count : Nat)
  | jmp (target : AsmTarget)
  | set (imm : Nat)
  deriving DecidableEq, Repr

/-- A source instruction: operation, side-set clause, delay clause (0 when none is written) (R103). -/
structure AsmInstr where
  op    : AsmOp
  side  : Nat
  delay : Nat
  deriving DecidableEq, Repr

/-- One item of an assembler source (R104). -/
inductive AsmItem where
  | program (name : List Char)
  | sideSet (bits : Nat)
  | label (name : List Char) (isPublic : Bool)
  | wrapTarget
  | wrap
  | instr (i : AsmInstr)
  deriving DecidableEq, Repr

end Sys2Proof
end

