-- ==== Sys2Proof/Machine/State.lean ====
section
/-! DEFINITION. The state of the block and of the two host agents as plain data, the recorded faults and refusals, and
the state after reset (spec/10_state.md, spec/70_reset_and_hazards.md R311). -/

namespace Sys2Proof.Machine

/-- The registers that may be written only while CTRL.EN = 0 (R316). -/
inductive ConfigReg where
  | clkdiv
  | progctrl
  | imem (k : ImemAddr)
  deriving DecidableEq, Repr

/-- The model faults of R282. The spec has them RECORDED in the set `faults` while the cycle goes on (R12, R41, R120),
so each is an entry of `Marks.faults` and no step ends in one (log 2). Recording is safe for a claim that asks for an
empty set ("a run with a fault recorded refutes every claim"), and unsafe for one that does not ask. -/
inductive Fault where
  /-- Fetch of the unwritten IMEM word `a` (R120): raised by `engineCycle`. The hardware executes some word. Safe with the mark. -/
  | imemUnwritten (a : ImemAddr)
  /-- `JMP X--` at `pc` with X unwritten: raised by `execJmpXDec`, as R120, R127 and D9 prescribe, and recurring at every
  tick (R120). The hardware tests some unspecified value (R282). Safe with the mark. -/
  | xUnwritten (pc : ImemAddr)
  /-- A TXF write of `w` with the FIFO full (R168): raised by `pushTxf`. The word is dropped, exactly as in hardware. Safe. -/
  | overflowWrite (w : Word32)
  /-- A write to `r` while EN = 1 (R174, R175, R177): raised by `configWrite`. Not performed. Safe with the mark. -/
  | configWhileRunning (r : ConfigReg)
  /-- An access of `width` bits at `off` that is not a 32-bit aligned one (R61): raised by `busStep`. Not performed. Safe with the mark. -/
  | badAccess (off : Offset) (width : Nat)
  deriving DecidableEq, Repr

/-- The model refusals of R283, recorded in `Marks.refusals`; no step ends in one (log 2). -/
inductive Refusal where
  /-- Fetch at `a` of the word `w`, which is not admitted (R99, R120): raised by `engineCycle`. Safe with the mark. -/
  | illegalEncoding (a : ImemAddr) (w : Word16)
  /-- A cycle with EN = 1 and CLKDIV.INT = 0 (R201): raised by `dividerTurn`. Safe with the mark. -/
  | badDivisor
  /-- An instruction without a meaning: raised by no arm of `exec` in this model. Safe. -/
  | notModelled (mnemonic : String)
  deriving DecidableEq, Repr

/-- The instruction memory: (address, word) pairs, addresses strictly rising and below 32. An address that is not listed
is an UNWRITTEN word, which holds no value (R28). Its unit is the 16-bit word, the smallest the spec addresses (R60, R62;
log 6). -/
abbrev Memory := List (Nat × Word16)

/-- The engine's registers, the `eng'` of R45 (R21 to R26). -/
structure Engine where
  /-- PC, the address of the instruction being issued (R22). -/
  pc       : ImemAddr
  /-- X, the scratch counter (R21); it has a value only once `xWritten` is true. -/
  x        : Word32
  /-- X has been written since reset (R21, R128). -/
  xWritten : Bool
  /-- OSR, the output shift register (R23). -/
  osr      : Word32
  /-- osr_count, the bits shifted out since the last load; 32 means empty (R24). -/
  osrCount : BitVec 6
  /-- SD_OUT, the data line (R25). -/
  sdOut    : Bool
  /-- SIDE_OUT: bit 1 word-select, bit 0 bit-clock (R26). -/
  sideOut  : SideSet
  deriving DecidableEq, Repr

/-- The writable fields of CTRL, CLKDIV and PROGCTRL (R32 to R34). Reserved bits read 0 and ignore writes, so they have
no storage. -/
structure Regs where
  en         : Bool
  divInt     : BitVec 16
  divFrac    : BitVec 8
  entry      : ImemAddr
  wrapBottom : ImemAddr
  wrapTop    : ImemAddr
  deriving DecidableEq, Repr

/-- The model-only state of R41. `faults` and `refusals` are sets, held as lists without repeats (log 7); `refused` is
`refusals ≠ []` (log 8). -/
structure Marks where
  faults       : List Fault
  refusals     : List Refusal
  underrunSeen : Bool
  deriving DecidableEq, Repr

/-- R41: `refused`, "a Boolean that becomes true at the first refusal and stays true". -/
def Marks.refused (m : Marks) : Bool := !m.refusals.isEmpty

/-- Which access the producer makes next in its iteration (R231). -/
inductive ProducerPhase where
  | poll
  | enqueue
  deriving DecidableEq, Repr

/-- The two host agents on the CPU: the producer's index and phase (R230, R231) and how many accesses of its boot script
the loader has made (R313). -/
structure Cpu where
  idx   : Nat
  phase : ProducerPhase
  boot  : Nat
  deriving DecidableEq, Repr

/-- What uses the register-interface port in one system cycle (R40): no access, a raw access of any width, or a turn of
the loader or of the producer, whose own rules then give the access. -/
inductive BusOp where
  | idle
  | read (off : Offset) (width : Nat)
  | write (off : Offset) (width : Nat) (v : Word32)
  | loaderTurn
  | producerTurn
  deriving DecidableEq, Repr

/-- The inputs of one system cycle: `rst` and the port (R40). -/
structure CycleInput where
  rst : Bool
  op  : BusOp
  deriving DecidableEq, Repr

/-- A cycle in which nothing happens at the ports. -/
def CycleInput.quiet : CycleInput where
  rst := false
  op  := .idle

/-- The state of the block, its parameters, its coming inputs and its host agents. -/
structure State where
  /-- The parameters of the step (R43); no step writes them. -/
  params : Params
  /-- The engine's registers. -/
  eng    : Engine
  /-- IMEM (R28). -/
  imem   : Memory
  /-- The FIFO, oldest entry first (R29). -/
  fifo   : List Word32
  /-- DIV_ACC, in units of 2^-8 system cycles (R31). -/
  divAcc : BitVec 25
  /-- CTRL, CLKDIV, PROGCTRL. -/
  regs   : Regs
  /-- The model-only marks (R41). -/
  marks  : Marks
  /-- The host agents (R230, R313). -/
  cpu    : Cpu
  /-- The inputs of the coming system cycles, the next one first; after the last, cycles are quiet (log 4). -/
  inputs : List CycleInput
  /-- What the port returned in the last cycle: the word read, or none (R40, log 9). -/
  rdata  : Option Word32
  deriving DecidableEq, Repr

/-- The engine after reset (R311). X has no value: 0 stands beside the mark `xWritten = false` (DESIGN CHOICE, log 1). -/
def Engine.reset : Engine where
  pc       := 0#5
  x        := 0#32
  xWritten := false
  osr      := 0x00000000#32
  osrCount := 32#6
  sdOut    := false
  sideOut  := 0b00#2

/-- The configuration registers after reset: CTRL 0x0000_0000, CLKDIV 0x0001_0000, PROGCTRL 0x001F_0000 (R311). -/
def Regs.reset : Regs where
  en         := false
  divInt     := 1#16
  divFrac    := 0#8
  entry      := 0#5
  wrapBottom := 0#5
  wrapTop    := 31#5

/-- No fault, no refusal, no underrun (R310, R311). -/
def Marks.reset : Marks where
  faults       := []
  refusals     := []
  underrunSeen := false

/-- The host agents at their start: idx = 0 before a poll (R230), no boot access made (R313). -/
def Cpu.start : Cpu where
  idx   := 0
  phase := .poll
  boot  := 0

/-- The reset state of R311 for given parameters, with the inputs of the cycles that follow. -/
def State.resetWith (p : Params) (inputs : List CycleInput) : State where
  params := p
  eng    := Engine.reset
  imem   := []
  fifo   := []
  divAcc := 0#25
  regs   := Regs.reset
  marks  := Marks.reset
  cpu    := Cpu.start
  inputs := inputs
  rdata  := none

/-- The machine right after reset (R311), with the default parameters (log 5) and no input to come (log 4). -/
def State.reset : State := State.resetWith Params.default []

end Sys2Proof.Machine
end

