-- ==== Sys2Proof/Machine/Flags.lean ====
section
/-! DEFINITION. The engine has no flags and no condition codes (spec/10_state.md R27). The only status values of the
block are those of the FIFO's occupancy monitor (R30); the only condition is the test of X by `JMP X--` (R127). -/

namespace Sys2Proof.Machine

/-- LEVEL = level, the number of entries (R30). -/
def State.level (s : State) : Nat := s.fifo.length

/-- FULL = (level = FIFO_DEPTH) (R30). -/
def State.full (s : State) : Bool := s.level == s.params.fifoDepth

/-- EMPTY = (level = 0) (R30). -/
def State.empty (s : State) : Bool := s.level == 0

/-- The condition of `JMP X--`, tested before the decrement (R127). -/
def State.xNonzero (s : State) : Bool := s.eng.x != 0#32

end Sys2Proof.Machine
end

