-- ==== Sys2Proof/Machine/Operands.lean ====
section
/-! DEFINITION. Operand assembly (spec/30_encoding.md R98) and the successor of PC (spec/40_engine_instructions.md
R124). -/

namespace Sys2Proof.Machine

/-- R98(b): SET's immediate is zero-extended to 32 bits. -/
def setOperand (imm : BitVec 5) : Word32 := imm.setWidth 32

/-- R98(a): JMP's target is the address field itself, absolute and unsigned. -/
def jumpTarget (addr : ImemAddr) : ImemAddr := addr

/-- R124: `next(pc)` is WRAP_BOTTOM after WRAP_TOP, else pc + 1 mod 32. -/
def State.nextPc (s : State) : ImemAddr :=
  if s.eng.pc = s.regs.wrapTop then s.regs.wrapBottom else s.eng.pc + 1#5

end Sys2Proof.Machine
end

