-- ==== Sys2Proof/WellFormed.lean ====
section
/-! DEFINITION. The checks on instruction words, parameters, program images and assembler operands. Every term of
`Instr` is well formed, because its field types admit exactly the values of spec/30_encoding.md R94, R95 and R97. -/

namespace Sys2Proof

/-- A word is admitted when one of the three mask-and-match tests of R96 holds. -/
def admitted (w : Word16) : Bool :=
  (w &&& 0xE7FF#16) == 0x6001#16 || (w &&& 0xE7E0#16) == 0x0040#16 || (w &&& 0xE7E0#16) == 0xE020#16

/-- Well-formedness of an instruction: no field can hold an ill-formed value (R92, R98). -/
def Instr.wf : Instr → Bool
  | .outPins1 _ => true
  | .jmpXDec _ _ => true
  | .setX _ _ => true

/-- A Sample is in [-32768, 32767] (R160). -/
def sampleInRange (v : Int) : Bool := decide (-32768 ≤ v) && decide (v ≤ 32767)

/-- A Waveform has even length N ≥ 2 and Samples in range (R230, D34). -/
def Params.waveOk (p : Params) : Bool :=
  p.wave.length % 2 == 0 && decide (2 ≤ p.wave.length) && p.wave.all sampleInRange

/-- 1 ≤ FIFO_DEPTH ≤ 255 (R10). -/
def Params.depthOk (p : Params) : Bool := decide (1 ≤ p.fifoDepth) && decide (p.fifoDepth ≤ 255)

/-- SYSCLK_HZ and SAMPLE_RATE_HZ are positive (R10). -/
def Params.ratesOk (p : Params) : Bool := decide (0 < p.sysclkHz) && decide (0 < p.sampleRateHz)

/-- The parameters are in the ranges of R10. The loader's own conditions (R287) are apart: the block runs without them. -/
def Params.wf (p : Params) : Bool := p.depthOk && p.waveOk && p.ratesOk

/-- Word-select sits at bit-clock's pin + 1 (R39, R287). -/
def PinBinding.adjacent (b : PinBinding) : Bool := b.wordSelect == b.bitClock + 1

/-- The image fits the instruction memory of 32 words (R28, R287). -/
def Image.fits (g : Image) : Bool := decide (g.words.length ≤ 32)

/-- The operand ranges of the assembler forms (R103): bit count 1, address and immediate below 32. -/
def AsmOp.wf : AsmOp → Bool
  | .out count => count == 1
  | .jmp (.address n) => decide (n < 32)
  | .jmp (.label _) => true
  | .set imm => decide (imm < 32)

/-- A source instruction is legal: operands in range, side-set in [0, 3], no delay (R103). -/
def AsmInstr.wf (i : AsmInstr) : Bool := i.op.wf && decide (i.side < 4) && i.delay == 0

end Sys2Proof
end

