-- ==== Sys2Proof/Decode.lean ====
section
/-! DEFINITION. Decoding and encoding of the 16-bit instruction word (spec/30_encoding.md R90 to R101). -/

namespace Sys2Proof

/-- OPC, the major opcode, bits 15:13 (R91). -/
def fieldOpc (w : Word16) : BitVec 3 := w.extractLsb' 13 3

/-- SS, the side-set value, bits 12:11 (R91, R92). -/
def fieldSs (w : Word16) : SideSet := w.extractLsb' 11 2

/-- DLY, the delay, bits 10:8 (R91, R93). -/
def fieldDly (w : Word16) : BitVec 3 := w.extractLsb' 8 3

/-- SEL, the condition or destination, bits 7:5 (R91). -/
def fieldSel (w : Word16) : BitVec 3 := w.extractLsb' 5 3

/-- ARG, the address, bit count or immediate, bits 4:0 (R91). -/
def fieldArg (w : Word16) : BitVec 5 := w.extractLsb' 0 5

/-- Decodes a word: the three admitted forms of R94, R95 and R97, with DLY = 0 (R93). Any other word is illegal (R99):
`none`, which `State.fetch` reports by name as an illegal encoding. -/
def decode (w : Word16) : Option Instr :=
  if fieldDly w = 0b000#3 then
    if fieldOpc w = 0b011#3 ∧ fieldSel w = 0b000#3 ∧ fieldArg w = 0b00001#5 then some (.outPins1 (fieldSs w))
    else if fieldOpc w = 0b000#3 ∧ fieldSel w = 0b010#3 then some (.jmpXDec (fieldSs w) (fieldArg w))
    else if fieldOpc w = 0b111#3 ∧ fieldSel w = 0b001#3 then some (.setX (fieldSs w) (fieldArg w))
    else none
  else none

/-- Assembles the five fields of the one format (R91). -/
def assembleFields (opc : BitVec 3) (ss : SideSet) (dly sel : BitVec 3) (arg : BitVec 5) : Word16 :=
  opc ++ ss ++ dly ++ sel ++ arg

/-- The word of an instruction (R94, R95, R97). -/
def encode : Instr → Word16
  | .outPins1 ss => assembleFields 0b011#3 ss 0b000#3 0b000#3 0b00001#5
  | .jmpXDec ss addr => assembleFields 0b000#3 ss 0b000#3 0b010#3 addr
  | .setX ss imm => assembleFields 0b111#3 ss 0b000#3 0b001#3 imm

/-- The 16-bit word the opcode table's numbering gives: an instruction is one word, so bit 0 of the table is bit 0 of
the word; bits at or above `nbits` are 0. -/
def tableWord (nbits w : Nat) : Word16 := BitVec.ofNat 16 (w % 2 ^ nbits)

/-- What the decoder reads from an instruction whose bits are `w`, numbered as spec/opcode_table.json numbers them. -/
def decodeTableWord (nbits w : Nat) : Option Instr := decode (tableWord nbits w)

end Sys2Proof
end

