-- ==== Sys2Proof/Machine/Ops.lean ====
section
/-! DEFINITION. The named operations on the state: instruction memory, fetch, the engine's registers, the FIFO, the
configuration registers, the marks and the ports. The block has no traps (spec/60_exceptions.md R280, R286): what stands
in for taking an exception is ONE shared operation, `State.raise`, which records a fault (R282), with `State.refuse`
beside it (R283); there is no return. -/

namespace Sys2Proof.Machine

/-- Adds an element to a set held as a list without repeats (R41: the set never shrinks). -/
def insertNew {α : Type} [DecidableEq α] (a : α) (l : List α) : List α := if a ∈ l then l else l ++ [a]

/-- `raise Fault(kind)` (R12, R282). -/
def State.raise (f : Fault) (s : State) : State :=
  { s with marks := { s.marks with faults := insertNew f s.marks.faults } }

/-- `refuse(kind)` (R12, R283). -/
def State.refuse (r : Refusal) (s : State) : State :=
  { s with marks := { s.marks with refusals := insertNew r s.marks.refusals } }

/-- `underrun_seen <- true` (R125, R294). -/
def State.noteUnderrun (s : State) : State := { s with marks := { s.marks with underrunSeen := true } }

/-- Reads an IMEM word; `none` is an unwritten word (R28). -/
def Memory.read : Memory → Nat → Option Word16
  | [], _ => none
  | (b, w) :: m, a => if a = b then some w else Memory.read m a

/-- Writes an IMEM word and marks it written (R177), keeping the addresses strictly rising. -/
def Memory.write : Memory → Nat → Word16 → Memory
  | [], a, v => [(a, v)]
  | (b, w) :: m, a, v =>
    if a < b then (a, v) :: (b, w) :: m
    else if a = b then (a, v) :: m
    else (b, w) :: Memory.write m a v

/-- Addresses strictly rise from `lo` on. -/
def Memory.risesFrom : Nat → Memory → Bool
  | _, [] => true
  | lo, (b, _) :: m => decide (lo ≤ b) && Memory.risesFrom (b + 1) m

/-- The canonical form: addresses strictly rising and below 32 (R28). An unlisted address is unwritten, which no listed
word is, so no entry equals what an unlisted address reads as. -/
def Memory.wf (m : Memory) : Bool := Memory.risesFrom 0 m && m.all fun c => decide (c.1 < 32)

/-- What a fetch finds (R120). -/
inductive Fetched where
  | instr (i : Instr)
  | unwritten
  | illegal (w : Word16)
  deriving DecidableEq, Repr

/-- Instruction fetch: one whole IMEM word at PC (R62), decoded; an undecodable word is rejected by name (R99). -/
def State.fetch (s : State) : Fetched :=
  match s.imem.read s.eng.pc.toNat with
  | none => .unwritten
  | some w =>
    match decode w with
    | some i => .instr i
    | none => .illegal w

/-- `side_out <- w[12:11]` of the issued instruction (R123). -/
def State.issue (ss : SideSet) (s : State) : State := { s with eng := { s.eng with sideOut := ss } }

/-- `pc <- a`: the instruction completes (R122). -/
def State.goto (a : ImemAddr) (s : State) : State := { s with eng := { s.eng with pc := a } }

/-- `x <- v`, which marks X written (R128). -/
def State.writeX (v : Word32) (s : State) : State := { s with eng := { s.eng with x := v, xWritten := true } }

/-- The common half of R125: bit 31 of `v` goes to SD_OUT, the rest shifted left with a 0 goes to the OSR, and
osr_count becomes `n + 1`. -/
def State.shiftOut (v : Word32) (n : BitVec 6) (s : State) : State :=
  { s with eng := { s.eng with sdOut := v.msb, osr := v <<< 1, osrCount := n + 1#6 } }

/-- The FIFO's head entry is removed (R165). -/
def State.popFifo (s : State) : State := { s with fifo := s.fifo.tail }

/-- A word is appended at the FIFO's tail (R167). -/
def State.pushFifo (w : Word32) (s : State) : State := { s with fifo := s.fifo ++ [w] }

/-- DIV_ACC takes its next value (R202). -/
def State.setDivAcc (a : BitVec 25) (s : State) : State := { s with divAcc := a }

/-- `EN <- e` (R173). -/
def State.setEn (e : Bool) (s : State) : State := { s with regs := { s.regs with en := e } }

/-- CLKDIV takes the fields of `v`: INT <- v[31:16], FRAC <- v[15:8], v[7:0] ignored (R174). -/
def State.setClkdiv (v : Word32) (s : State) : State :=
  { s with regs := { s.regs with divInt := v.extractLsb' 16 16, divFrac := v.extractLsb' 8 8 } }

/-- PROGCTRL takes the fields of `v`: ENTRY <- v[4:0], WRAP_BOTTOM <- v[12:8], WRAP_TOP <- v[20:16]; PC <- the new ENTRY
(R175). -/
def State.setProgctrl (v : Word32) (s : State) : State :=
  { s with
    regs := { s.regs with
      entry := v.extractLsb' 0 5, wrapBottom := v.extractLsb' 8 5, wrapTop := v.extractLsb' 16 5 }
    eng := { s.eng with pc := v.extractLsb' 0 5 } }

/-- `IMEM[k] <- v` (R177). -/
def State.writeImem (k : ImemAddr) (v : Word16) (s : State) : State := { s with imem := s.imem.write k.toNat v }

/-- The port returned `v` in this cycle (R40). -/
def State.setRdata (v : Word32) (s : State) : State := { s with rdata := some v }

/-- The host agents move on. -/
def State.setCpu (c : Cpu) (s : State) : State := { s with cpu := c }

/-- The inputs of the coming system cycle; quiet when none is listed (log 4). -/
def State.nextInput (s : State) : CycleInput := s.inputs.headD CycleInput.quiet

/-- The state a cycle's parts work on: this cycle's inputs taken from the list, nothing returned by the port yet. -/
def State.begin (s : State) : State := { s with inputs := s.inputs.tail, rdata := none }

/-- R310: the post-state of a cycle with `rst` asserted. The parameters and the inputs of later cycles are not state of
the block and stay; the host agents start again (log 10). -/
def State.afterRst (s : State) : State := State.resetWith s.params s.inputs.tail

end Sys2Proof.Machine
end

