-- ==== Sys2Proof/Machine/Jump.lean ====
section
/-! DEFINITION. The jump family: `JMP X--, addr` (spec/40_engine_instructions.md R127). -/

namespace Sys2Proof.Machine

/-- `JMP X--, addr`. X is tested, then decremented in every case. With X unwritten the fault is recorded and no engine
state changes, SIDE_OUT included: the spec gives this step that post-state (R120, R127, V4.8). -/
def execJmpXDec (ss : SideSet) (addr : ImemAddr) (s : State) : Host.Outcome State Fault Refusal :=
  if s.eng.xWritten then
    let target := if s.xNonzero then jumpTarget addr else s.nextPc
    .next (((s.issue ss).writeX (s.eng.x - 1#32)).goto target)
  else
    .next (s.raise (.xUnwritten s.eng.pc))

end Sys2Proof.Machine
end

