-- ==== Sys2Proof/Machine/SetCounter.lean ====
section
/-! DEFINITION. The set family: `SET X, imm` (spec/40_engine_instructions.md R128). -/

namespace Sys2Proof.Machine

/-- `SET X, imm`. -/
def execSetX (ss : SideSet) (imm : BitVec 5) (s : State) : Host.Outcome State Fault Refusal :=
  .next (((s.issue ss).writeX (setOperand imm)).goto s.nextPc)

end Sys2Proof.Machine
end

