-- ==== Sys2Proof/Machine/ShiftOut.lean ====
section
/-! DEFINITION. The shift-out family: `OUT PINS, 1` with its autopull (spec/40_engine_instructions.md R125, R126). -/

namespace Sys2Proof.Machine

/-- `OUT PINS, 1`. With osr_count = 32 it takes the FIFO's head and shifts in the same engine cycle, or stalls when the
FIFO is empty: only SIDE_OUT and `underrun_seen` change then (R125, R126). -/
def execOutPins1 (ss : SideSet) (s : State) : Host.Outcome State Fault Refusal :=
  if s.eng.osrCount = 32#6 then
    match s.fifo with
    | [] => .next (s.issue ss).noteUnderrun
    | v :: _ => .next (((s.issue ss).popFifo.shiftOut v 0#6).goto s.nextPc)
  else
    .next (((s.issue ss).shiftOut s.eng.osr s.eng.osrCount).goto s.nextPc)

end Sys2Proof.Machine
end

