-- ==== Sys2Proof/Machine/Dispatch.lean ====
section
/-! DEFINITION. One engine cycle of an issued instruction, by constructor (spec/40_engine_instructions.md R120). -/

namespace Sys2Proof.Machine

def exec (i : Instr) (s : State) : Host.Outcome State Fault Refusal :=
  match i with
  | .outPins1 ss => Sys2Proof.Machine.execOutPins1 ss s
  | .jmpXDec ss addr => Sys2Proof.Machine.execJmpXDec ss addr s
  | .setX ss imm => Sys2Proof.Machine.execSetX ss imm s

end Sys2Proof.Machine
end

