-- ==== Sys2Proof/Machine/Divider.lean ====
section
/-! DEFINITION. The fixed-point clock divider and the divisor calculation (spec/45_clock_divider.md). -/

namespace Sys2Proof.Machine

/-- Dq = INT × 256 + FRAC, the divisor scaled by 256, 24 bits (R200). -/
def Regs.dq (r : Regs) : BitVec 24 := r.divInt ++ r.divFrac

/-- What `DividerStep` gives in one system cycle (R202): its tick and the next DIV_ACC. -/
inductive DividerResult where
  | paused
  | badDivisor
  | noTick (acc : BitVec 25)
  | tick (acc : BitVec 25)
  deriving DecidableEq, Repr

/-- R202, `DividerStep`. The sum is taken in the accumulator's 25 bits; it does not overflow while DIV_ACC is in its range
(R31; log 15). -/
def dividerStep (s : State) : DividerResult :=
  if s.regs.en then
    if s.regs.divInt = 0#16 then .badDivisor
    else
      let a := s.divAcc + 256#25
      let dq := s.regs.dq.setWidth 25
      if dq ≤ a then .tick (a - dq) else .noTick a
  else .paused

/-- This cycle is a tick (R14). -/
def State.tickDue (s : State) : Bool :=
  match dividerStep s with
  | .tick _ => true
  | _ => false

/-- The accumulator after this cycle (R202). -/
def State.nextDivAcc (s : State) : BitVec 25 :=
  match dividerStep s with
  | .tick acc => acc
  | .noTick acc => acc
  | _ => s.divAcc

/-- The errors of `CalcDivisor` (R210). -/
inductive CalcError where
  | invalidInput
  | outOfRange
  deriving DecidableEq, Repr

/-- R209: the scaled divisor, rounded to nearest, ties up. -/
def calcDq (sampleRateHz sysclkHz : Nat) : Nat := (8 * sysclkHz + sampleRateHz) / (2 * sampleRateHz)

/-- R207 to R210, `CalcDivisor`: INT and FRAC, or an error, the checks in the order of R210. -/
def calcDivisor (sampleRateHz sysclkHz : Nat) : Except CalcError (BitVec 16 × BitVec 8) :=
  if sampleRateHz = 0 ∨ sysclkHz = 0 then .error .invalidInput
  else
    let dq := calcDq sampleRateHz sysclkHz
    if dq < 256 then .error .outOfRange
    else if dq > 16777215 then .error .outOfRange
    else .ok (BitVec.ofNat 16 (dq / 256), BitVec.ofNat 8 (dq % 256))

/-- The CLKDIV value of a divisor: INT in [31:16], FRAC in [15:8] (R209). -/
def clkdivWord (d : BitVec 16 × BitVec 8) : Word32 := d.1 ++ d.2 ++ 0#8

/-- f_tick = SYSCLK_HZ / D, with D = Dq / 256, as an exact rational (R206). -/
def tickRate (sysclkHz dq : Nat) : Rat := (sysclkHz : Rat) * 256 / (dq : Rat)

/-- f_bclk = f_tick / 2 (R206, 90_conflicts.md C1). -/
def bitClockRate (sysclkHz dq : Nat) : Rat := tickRate sysclkHz dq / 2

/-- f_ws = f_tick / 64, the sample rate produced (R206, R259). -/
def wordSelectRate (sysclkHz dq : Nat) : Rat := tickRate sysclkHz dq / 64

/-- The bit-clock target SAMPLE_RATE_HZ × 16 × 2 (R208). -/
def bitClockTarget (sampleRateHz : Nat) : Nat := sampleRateHz * 16 * 2

end Sys2Proof.Machine
end

