-- ==== Sys2Proof/Machine/RegisterInterface.lean ====
section
/-! DEFINITION. The register interface: the map of spec/20_memory.md R66 and the operations of
spec/44_fifo_and_packer.md R172 to R178. `pre` is the state at the start of the cycle, `post` the one being built: a read
returns a value of `pre`, a write changes `post` only (R70, R172). -/

namespace Sys2Proof.Machine

/-- The registers of R66. -/
inductive Reg where
  | ctrl
  | clkdiv
  | progctrl
  | fstat
  | txf
  | imem (k : ImemAddr)
  | unmapped
  deriving DecidableEq, Repr

/-- The register at an offset (R66). IMEM_k stands at 0x080 + 4k: bits 11:7 are 0b00001 and bits 6:2 are k. -/
def regAt (off : Offset) : Reg :=
  if off = 0x000#12 then .ctrl
  else if off = 0x004#12 then .clkdiv
  else if off = 0x008#12 then .progctrl
  else if off = 0x00C#12 then .fstat
  else if off = 0x010#12 then .txf
  else if off.extractLsb' 7 5 = 0b00001#5 then .imem (off.extractLsb' 2 5)
  else .unmapped

/-- R61: an access is good when it is 32 bits wide at a multiple of 4. -/
def goodAccess (off : Offset) (width : Nat) : Bool := width == 32 && off.extractLsb' 0 2 == 0#2

/-- R35, R176: FSTAT is {0 (22 bits), EMPTY, FULL, LEVEL[7:0]}. -/
def State.fstat (s : State) : Word32 :=
  0#22 ++ BitVec.ofBool s.empty ++ BitVec.ofBool s.full ++ BitVec.ofNat 8 s.level

/-- What a read of a register returns (R173 to R178, R67). -/
def readReg (r : Reg) (s : State) : Word32 :=
  match r with
  | .ctrl => 0#31 ++ BitVec.ofBool s.regs.en
  | .clkdiv => s.regs.divInt ++ s.regs.divFrac ++ 0#8
  | .progctrl => 0#11 ++ s.regs.wrapTop ++ 0#3 ++ s.regs.wrapBottom ++ 0#3 ++ s.regs.entry
  | .fstat => s.fstat
  | .txf => 0#32
  | .imem _ => 0#32
  | .unmapped => 0#32

/-- R316: `written` is the result of a configuration write that is legal only with EN = 0 in the pre-state; with EN = 1
the write is not performed and the fault is recorded. -/
def configWrite (r : ConfigReg) (written pre post : State) : State :=
  if pre.regs.en then post.raise (.configWhileRunning r) else written

/-- R167, R168: a TXF write, accepted or dropped by the level of the pre-state (R171). -/
def pushTxf (w : Word32) (pre post : State) : State :=
  if pre.level < pre.params.fifoDepth then post.pushFifo w
  else if pre.level = pre.params.fifoDepth then post.raise (.overflowWrite w)
  else post

/-- What a write of a register does (R173 to R178, R67). -/
def writeReg (r : Reg) (v : Word32) (pre post : State) : State :=
  match r with
  | .ctrl => post.setEn (v.getLsbD 0)
  | .clkdiv => configWrite .clkdiv (post.setClkdiv v) pre post
  | .progctrl => configWrite .progctrl (post.setProgctrl v) pre post
  | .fstat => post
  | .txf => pushTxf v pre post
  | .imem k => configWrite (.imem k) (post.writeImem k (v.extractLsb' 0 16)) pre post
  | .unmapped => post

/-- One register access, or none (R40). -/
inductive Access where
  | none
  | read (off : Offset) (width : Nat)
  | write (off : Offset) (width : Nat) (v : Word32)
  deriving DecidableEq, Repr

/-- R172, `BusStep`: the access is performed, or recorded as `BadAccess` and not performed (R61). -/
def busStep (a : Access) (pre post : State) : State :=
  match a with
  | .none => post
  | .read off width =>
    if goodAccess off width then post.setRdata (readReg (regAt off) pre) else post.raise (.badAccess off width)
  | .write off width v =>
    if goodAccess off width then writeReg (regAt off) v pre post else post.raise (.badAccess off width)

end Sys2Proof.Machine
end

