-- ==== Sys2Proof/Machine/Loader.lean ====
section
/-! DEFINITION. The loader on the CPU: its initialisation checks (spec/60_exceptions.md R287) and its boot script
(spec/70_reset_and_hazards.md R313, spec/47_i2s_microprogram.md R251). -/

namespace Sys2Proof.Machine

/-- The fatal initialisation errors of R287 that the model can see. -/
inductive InitError where
  | pinAdjacency
  | divisor (e : CalcError)
  | tooLarge
  | illegalWord
  deriving DecidableEq, Repr

/-- `next(pc)` of R124 with the wrap addresses the image brings. -/
def imageNextPc (g : Image) (a : ImemAddr) : ImemAddr := if a = g.wrapTop then g.wrapBottom else a + 1#5

/-- The addresses the word at `a` can lead to: none when it is unwritten or illegal. -/
def imageSuccessors (g : Image) (a : ImemAddr) : List ImemAddr :=
  match g.words[a.toNat]? with
  | none => []
  | some w =>
    match decode w with
    | some (.jmpXDec _ target) => [target, imageNextPc g a]
    | some _ => [imageNextPc g a]
    | none => []

/-- The addresses reachable within `n` steps of those given. -/
def imageReachFrom (g : Image) : Nat → List ImemAddr → List ImemAddr
  | 0, known => known
  | n + 1, known => imageReachFrom g n ((known.flatMap (imageSuccessors g)).foldl (fun acc a => insertNew a acc) known)

/-- The addresses the program can reach from its entry point (R99); 32 steps reach every one of the 32. -/
def imageReachable (g : Image) : List ImemAddr := imageReachFrom g 32 [g.entry]

/-- R99, R287: every word at a reachable address is admitted. -/
def imageAdmissible (g : Image) : Bool :=
  (imageReachable g).all fun a =>
    match g.words[a.toNat]? with
    | some w => admitted w
    | none => true

/-- The offset of IMEM_k (R37). -/
def imemOffset (k : Nat) : Offset := BitVec.ofNat 12 (0x080 + 4 * k)

/-- The writes of IMEM_k, IMEM_(k+1), … with the given words. -/
def imemWrites : Nat → List Word16 → List (Offset × Word32)
  | _, [] => []
  | k, w :: ws => (imemOffset k, w.setWidth 32) :: imemWrites (k + 1) ws

/-- The PROGCTRL value of an image (R175, R251). -/
def imageProgctrl (g : Image) : Word32 := 0#11 ++ g.wrapTop ++ 0#3 ++ g.wrapBottom ++ 0#3 ++ g.entry

/-- The register writes of the boot order of R313, steps 1 to 5 and 7, or the error that aborts it: pins, divisor,
program size, illegal words; then IMEM, CLKDIV, PROGCTRL (the order R313 lists, log 11) and CTRL = 1. -/
def loaderScript (p : Params) : Except InitError (List (Offset × Word32)) :=
  if !p.pins.adjacent then .error .pinAdjacency
  else
    match calcDivisor p.sampleRateHz p.sysclkHz with
    | .error e => .error (.divisor e)
    | .ok d =>
      if !p.image.fits then .error .tooLarge
      else if !imageAdmissible p.image then .error .illegalWord
      else .ok (imemWrites 0 p.image.words ++
        [(0x004#12, clkdivWord d), (0x008#12, imageProgctrl p.image), (0x000#12, 1#32)])

/-- The loader's access in its turn: the next write of its script; none after the last, and none at all after an
initialisation error, so that EN is never set (R287; log 12). -/
def loaderAccess (s : State) : Access :=
  match loaderScript s.params with
  | .error _ => .none
  | .ok script =>
    match script[s.cpu.boot]? with
    | some (off, v) => .write off 32 v
    | none => .none

/-- The loader after its turn. -/
def loaderNext (s : State) : Cpu :=
  match loaderAccess s with
  | .none => s.cpu
  | _ => { s.cpu with boot := s.cpu.boot + 1 }

end Sys2Proof.Machine
end

