-- ==== Sys2Proof/Machine/Packer.lean ====
section
/-! DEFINITION. The stereo sample packer, a combinational function (spec/44_fifo_and_packer.md R160 to R163). -/

namespace Sys2Proof.Machine

/-- R160: the left sample's 16-bit pattern in bits 31:16, the right sample's in bits 15:0. -/
def pack (l r : Int) : Word32 := BitVec.ofInt 16 l ++ BitVec.ofInt 16 r

/-- R161: the two halves read as signed 16-bit numbers, left first. -/
def unpack (w : Word32) : Int × Int := ((w.extractLsb' 16 16).toInt, (w.extractLsb' 0 16).toInt)

end Sys2Proof.Machine
end

