-- ==== Sys2Proof/Machine/Producer.lean ====
section
/-! DEFINITION. The producer, the Bridge on the CPU (spec/46_producer_bridge.md): one iteration of R231 is two of its
turns, an FSTAT read and, when FULL was 0, a TXF write. When its turns come is free (R239): the inputs say. -/

namespace Sys2Proof.Machine

/-- R232: the word the producer writes, pack(W[idx], W[idx + 1]). -/
def producerWord (s : State) : Word32 :=
  pack (s.params.wave.getD s.cpu.idx 0) (s.params.wave.getD (s.cpu.idx + 1) 0)

/-- The access the producer makes in its turn (R231). It makes none when its Waveform is not one (R230, D34; log 14). -/
def producerAccess (s : State) : Access :=
  if s.params.waveOk then
    match s.cpu.phase with
    | .poll => .read 0x00C#12 32
    | .enqueue => .write 0x010#12 32 (producerWord s)
  else .none

/-- The producer after its turn (R231): after a poll it enqueues next unless FSTAT[8], FULL, was 1; after a write the
index advances by 2 modulo N. -/
def producerNext (s : State) : Cpu :=
  if s.params.waveOk then
    match s.cpu.phase with
    | .poll => if s.fstat.getLsbD 8 then s.cpu else { s.cpu with phase := .enqueue }
    | .enqueue => { s.cpu with idx := (s.cpu.idx + 2) % s.params.wave.length, phase := .poll }
  else s.cpu

end Sys2Proof.Machine
end

