-- ==== Sys2Proof/Machine/Cycle.lean ====
section
/-! DEFINITION. One system cycle (spec/10_state.md R45): reset, else divider, engine, register access. Every part reads
the pre-state; the parts write different state, but for PC and `marks` (R45, R285). -/

namespace Sys2Proof.Machine

/-- R120, `EngineCycle`: fetch, the two checks of the fetch, then the instruction. -/
def engineCycle (s : State) : Host.Outcome State Fault Refusal :=
  match s.fetch with
  | .unwritten => .next (s.raise (.imemUnwritten s.eng.pc))
  | .illegal w => .next (s.refuse (.illegalEncoding s.eng.pc w))
  | .instr i => exec i s

/-- R45, the divider's and the engine's part: no tick, no engine cycle (R121, R285). -/
def dividerTurn (s : State) : Host.Outcome State Fault Refusal :=
  match dividerStep s with
  | .paused => .next s
  | .badDivisor => .next (s.refuse .badDivisor)
  | .noTick acc => .next (s.setDivAcc acc)
  | .tick acc => engineCycle (s.setDivAcc acc)

/-- The register access of a cycle (R40). -/
def accessOf (op : BusOp) (s : State) : Access :=
  match op with
  | .idle => .none
  | .read off width => .read off width
  | .write off width v => .write off width v
  | .loaderTurn => loaderAccess s
  | .producerTurn => producerAccess s

/-- The host agents after the cycle. -/
def cpuAfter (op : BusOp) (s : State) : Cpu :=
  match op with
  | .loaderTurn => loaderNext s
  | .producerTurn => producerNext s
  | .idle => s.cpu
  | .read _ _ => s.cpu
  | .write _ _ _ => s.cpu

/-- R45, the port's part: the access of the cycle, judged on the pre-state `pre` and applied to `post`. -/
def portStep (op : BusOp) (pre post : State) : State :=
  busStep (accessOf op pre) pre (post.setCpu (cpuAfter op pre))

/-- The port's part after the engine's: it applies to the state the engine's part answers. -/
def thenPort (op : BusOp) (pre : State) (o : Host.Outcome State Fault Refusal) : Host.Outcome State Fault Refusal :=
  match o with
  | .next t => .next (portStep op pre t)
  | .fault f => .fault f
  | .refused r => .refused r

/-- R45, one system cycle. -/
def systemCycle (s : State) : Host.Outcome State Fault Refusal :=
  if s.nextInput.rst then .next s.afterRst
  else thenPort s.nextInput.op s.begin (dividerTurn s.begin)

/-- IMEM[PC] gets the word, for `State.withFetchWord`. -/
def State.placeWord (w : Word16) (s : State) : State := s.writeImem s.eng.pc w

/-- The state with the least change that makes its next system cycle an engine cycle: no `rst` in it, EN = 1, a legal
divisor (the reset value D = 1.0 when INT = 0) and a DIV_ACC from which this cycle is a tick. -/
def State.readyToIssue (s : State) : State :=
  let inputs := match s.inputs with
    | [] => []
    | i :: rest => { i with rst := false } :: rest
  let regs := if s.regs.divInt = 0#16 then { s.regs with en := true, divInt := 1#16, divFrac := 0#8 }
    else { s.regs with en := true }
  let dq := regs.dq.setWidth 25
  let acc := if dq ≤ s.divAcc + 256#25 then s.divAcc else dq - 256#25
  { s with inputs := inputs, regs := regs, divAcc := acc }

end Sys2Proof.Machine
end

