-- ==== Sys2Proof/Machine/Step.lean ====
section
/-! DEFINITION. The step of the machine: one system cycle (log 3). -/

namespace Sys2Proof.Machine

/-- One system cycle (R45). -/
def step (s : State) : Host.Outcome State Fault Refusal := systemCycle s

/-- `s` with the instruction whose bits are `w` stored where the next engine cycle fetches, and with everything an engine
cycle needs (`State.readyToIssue`), so that the next step issues exactly it (log 13). -/
def State.withFetchWord (s : State) (nbits w : Nat) : State := (s.placeWord (tableWord nbits w)).readyToIssue

end Sys2Proof.Machine
end

