-- ==== Sys2Proof/Laws/PerInstr.lean ====
section
/-! SUPPORT. One family of statements over all instructions: the encoding of each is an admitted word that carries its
side-set value and no delay (spec/30_encoding.md R92, R93, R96). -/

namespace Sys2Proof.Laws.Encoding

/-- The encoded word is admitted, its DLY field is 0 and its SS field is the instruction's side-set value. -/
def Statement (i : Instr) : Prop :=
  admitted (encode i) = true ∧ fieldDly (encode i) = 0#3 ∧ fieldSs (encode i) = i.side

theorem outPins1 (ss : SideSet) : Statement (.outPins1 ss) := by
  revert ss
  unfold Statement
  decide

theorem jmpXDec (ss : SideSet) (addr : ImemAddr) : Statement (.jmpXDec ss addr) := by
  revert ss addr
  unfold Statement
  decide

theorem setX (ss : SideSet) (imm : BitVec 5) : Statement (.setX ss imm) := by
  revert ss imm
  unfold Statement
  decide

end Sys2Proof.Laws.Encoding
end

