-- ==== Sys2Proof/Machine/Assembler.lean ====
section
/-! DEFINITION. The assembler and the disassembler of spec/30_encoding.md R103 to R106. They have no effect on the
machine (D39): a loader's image may come from them. Source text is a list of characters. -/

namespace Sys2Proof.Machine

/-- Removes a comment: from `;` or `//` to the end of the line (R104). -/
def stripComment : List Char → List Char
  | [] => []
  | ';' :: _ => []
  | '/' :: '/' :: _ => []
  | c :: cs => c :: stripComment cs

/-- Splits a text at its line ends; `line` holds the current line, reversed. -/
def linesOf (line : List Char) : List Char → List (List Char)
  | [] => [line.reverse]
  | '\n' :: cs => line.reverse :: linesOf [] cs
  | c :: cs => linesOf (c :: line) cs

/-- A character that separates words and is dropped (DESIGN CHOICE, log 16). -/
def isBlank (c : Char) : Bool := c == ' ' || c == '\t' || c == '\r'

/-- A character that is a token by itself (DESIGN CHOICE, log 16). -/
def isPunctuation (c : Char) : Bool := c == ',' || c == ':' || c == '[' || c == ']'

/-- The tokens of a line; `word` holds the current word, reversed. -/
def tokensOf (word : List Char) : List Char → List (List Char)
  | [] => if word.isEmpty then [] else [word.reverse]
  | c :: cs =>
    if isBlank c || isPunctuation c then
      (if word.isEmpty then [] else [word.reverse]) ++ (if isPunctuation c then [[c]] else []) ++ tokensOf [] cs
    else tokensOf (c :: word) cs

/-- The value of a digit in a base up to 16. That hexadecimal digits may be upper case as well as lower case is a DESIGN
CHOICE: R103 has operands in lower case and gives `0x` numbers no digit case (log 16). -/
def digitValue (base : Nat) (c : Char) : Option Nat :=
  let v :=
    if '0'.toNat ≤ c.toNat ∧ c.toNat ≤ '9'.toNat then c.toNat - '0'.toNat
    else if 'a'.toNat ≤ c.toNat ∧ c.toNat ≤ 'f'.toNat then c.toNat - 'a'.toNat + 10
    else if 'A'.toNat ≤ c.toNat ∧ c.toNat ≤ 'F'.toNat then c.toNat - 'A'.toNat + 10
    else base
  if v < base then some v else none

/-- Reads digits most significant first. -/
def digitsValue (base : Nat) (acc : Nat) : List Char → Option Nat
  | [] => some acc
  | c :: cs => (digitValue base c).bind fun d => digitsValue base (acc * base + d) cs

/-- A number in decimal, `0b` binary or `0x` hexadecimal. R103 gives the three bases for the side-set value; that every
other number takes them too is a DESIGN CHOICE (log 16). -/
def numberOf : List Char → Option Nat
  | [] => none
  | '0' :: 'b' :: c :: cs => digitsValue 2 0 (c :: cs)
  | '0' :: 'x' :: c :: cs => digitsValue 16 0 (c :: cs)
  | cs => digitsValue 10 0 cs

/-- A name starts with a letter or an underscore and goes on with letters, digits and underscores, in either case; two names
are the same when they are spelled the same (DESIGN CHOICE, log 16). -/
def isName : List Char → Bool
  | [] => false
  | c :: cs => (c.isAlpha || c == '_') && cs.all fun d => d.isAlphanum || d == '_'

/-- A token spells this word. -/
def spells (t : List Char) (word : String) : Bool := t == word.toList

/-- The side-set clause and the optional delay clause that end an instruction: (side, delay) (R103). That the delay clause
may stand after the side-set clause or before it is a DESIGN CHOICE: R103 gives it no place (log 16). -/
def clausesOf : List (List Char) → Option (Nat × Nat)
  | [s, v] => if spells s "side" then (numberOf v).map fun n => (n, 0) else none
  | [s, v, l, d, r] =>
    if spells s "side" && spells l "[" && spells r "]" then
      (numberOf v).bind fun n => (numberOf d).map fun m => (n, m)
    else if spells s "[" && spells l "]" && spells d "side" then
      (numberOf r).bind fun n => (numberOf v).map fun m => (n, m)
    else none
  | _ => none

/-- A jump target: an address or a label (R103). -/
def targetOf (t : List Char) : Option AsmTarget :=
  match numberOf t with
  | some n => some (.address n)
  | none => if isName t then some (.label t) else none

/-- The operation at the head of an instruction's tokens, with the tokens that follow its operands (R103). -/
def operationOf : List (List Char) → Option (AsmOp × List (List Char))
  | m :: a :: b :: rest =>
    if spells m "jmp" && spells a "x--" then (targetOf b).map fun t => (.jmp t, rest)
    else
      match rest with
      | n :: rest' =>
        if spells m "out" && spells a "pins" && spells b "," then (numberOf n).map fun k => (.out k, rest')
        else if spells m "set" && spells a "x" && spells b "," then (numberOf n).map fun k => (.set k, rest')
        else none
      | [] => none
  | _ => none

/-- One source instruction. The side-set clause is mandatory (R103); there are no pseudo-instructions (R105). -/
def instructionOf (ts : List (List Char)) : Option AsmInstr :=
  (operationOf ts).bind fun p => (clausesOf p.2).map fun c => { op := p.1, side := c.1, delay := c.2 }

/-- What may follow a label on its line: an instruction (as R250 writes it) or nothing (as program P1 does). -/
def afterLabel (item : AsmItem) : List (List Char) → Option (List AsmItem)
  | [] => some [item]
  | ts => (instructionOf ts).map fun i => [item, .instr i]

/-- The items of one line (R103, R104). A directive stands on a line of its own (DESIGN CHOICE, log 16). -/
def itemsOf (ts : List (List Char)) : Option (List AsmItem) :=
  match ts with
  | [] => some []
  | [d] =>
    if spells d ".wrap_target" then some [.wrapTarget]
    else if spells d ".wrap" then some [.wrap]
    else none
  | [d, n] =>
    if spells d ".program" then some [.program n]
    else if spells d ".side_set" then (numberOf n).map fun k => [.sideSet k]
    else if isName d && spells n ":" then some [.label d false]
    else none
  | a :: b :: c :: rest =>
    if spells a "public" && isName b && spells c ":" then afterLabel (.label b true) rest
    else if isName a && spells b ":" then afterLabel (.label a false) (c :: rest)
    else (instructionOf ts).map fun i => [.instr i]

/-- The items of a list of lines, or nothing when a line cannot be read. -/
def itemsOfLines : List (List Char) → Option (List AsmItem)
  | [] => some []
  | l :: ls => (itemsOf (tokensOf [] (stripComment l))).bind fun is => (itemsOfLines ls).map fun rest => is ++ rest

/-- The items of a source text. -/
def parseSource (text : List Char) : Option (List AsmItem) := itemsOfLines (linesOf [] text)

/-- What the assembler has collected so far. -/
structure AsmState where
  started    : Bool
  sideSet    : Bool
  labels     : List (List Char × Nat)
  entry      : Option Nat
  wrapTarget : Option Nat
  wrap       : Option Nat
  instrs     : List AsmInstr
  deriving DecidableEq, Repr

/-- Nothing collected. -/
def AsmState.start : AsmState where
  started    := false
  sideSet    := false
  labels     := []
  entry      := none
  wrapTarget := none
  wrap       := none
  instrs     := []

/-- Takes one item. A label names the address of the next instruction (R104). That `.wrap_target` and a public label name
that address too is DEDUCED: R104 says only where the loader writes them (log 16). Refused: an ill-formed instruction and a
side-set declaration other than one `.side_set 2` (R103, R104); and, a DESIGN CHOICE (log 16), a program that does not start
with `.program`, a label twice, a second public label, `.wrap_target` or `.wrap`, a `.wrap` before any instruction. -/
def asmTake (st : AsmState) (item : AsmItem) : Option AsmState :=
  match item with
  | .program _ => if st.started then none else some { st with started := true }
  | .sideSet bits => if st.started && !st.sideSet && bits == 2 then some { st with sideSet := true } else none
  | .label name isPublic =>
    if !st.started || (st.labels.lookup name).isSome || (isPublic && st.entry.isSome) then none
    else some { st with
      labels := (name, st.instrs.length) :: st.labels
      entry := if isPublic then some st.instrs.length else st.entry }
  | .wrapTarget =>
    if st.started && st.wrapTarget.isNone then some { st with wrapTarget := some st.instrs.length } else none
  | .wrap =>
    if st.started && st.wrap.isNone && !st.instrs.isEmpty then some { st with wrap := some (st.instrs.length - 1) }
    else none
  | .instr i => if st.started && i.wf then some { st with instrs := st.instrs ++ [i] } else none

/-- Takes the items of a program in order. -/
def asmTakeAll (st : AsmState) : List AsmItem → Option AsmState
  | [] => some st
  | i :: is => (asmTake st i).bind fun st' => asmTakeAll st' is

/-- An address that fits in 5 bits. -/
def addr5 (n : Nat) : Option ImemAddr := if n < 32 then some (BitVec.ofNat 5 n) else none

/-- The instruction of a well-formed source instruction, its label resolved (R98, R104). -/
def resolve (labels : List (List Char × Nat)) (i : AsmInstr) : Option Instr :=
  let ss := BitVec.ofNat 2 i.side
  match i.op with
  | .out _ => some (.outPins1 ss)
  | .jmp (.address n) => (addr5 n).map fun a => .jmpXDec ss a
  | .jmp (.label name) => ((labels.lookup name).bind addr5).map fun a => .jmpXDec ss a
  | .set imm => some (.setX ss (BitVec.ofNat 5 imm))

/-- The words of a list of source instructions. -/
def resolveAll (labels : List (List Char × Nat)) : List AsmInstr → Option (List Word16)
  | [] => some []
  | i :: is => (resolve labels i).bind fun k => (resolveAll labels is).map fun ws => encode k :: ws

/-- R104: assembles a program at origin 0. Without `.wrap_target` WRAP_BOTTOM is the first instruction's address, without
`.wrap` WRAP_TOP is the last one's; without a public label ENTRY is the first instruction's address (DEDUCED, log 16).
A program without instructions, or one with a name or a wrap at an address above 31, is refused (DESIGN CHOICE, log 16). -/
def assemble (items : List AsmItem) : Option Image :=
  (asmTakeAll AsmState.start items).bind fun st =>
    if st.sideSet && !st.instrs.isEmpty then
      (resolveAll st.labels st.instrs).bind fun words =>
      (addr5 (st.entry.getD 0)).bind fun entry =>
      (addr5 (st.wrapTarget.getD 0)).bind fun bottom =>
      (addr5 (st.wrap.getD (st.instrs.length - 1))).map fun top =>
        { words := words, entry := entry, wrapBottom := bottom, wrapTop := top }
    else none

/-- Assembles a source text. -/
def assembleText (text : List Char) : Option Image := (parseSource text).bind assemble

/-- A bit as the disassembler prints it. -/
def bitText (b : Bool) : String := if b then "1" else "0"

/-- A side-set value as the disassembler prints it (R106). -/
def sideText (ss : SideSet) : String := " side 0b" ++ bitText (ss.getLsbD 1) ++ bitText (ss.getLsbD 0)

/-- Four hexadecimal digits, lower case (R106). -/
def hex4 (w : Word16) : String :=
  let digit (k : Nat) : String := String.ofList (Nat.toDigits 16 (w.toNat / 16 ^ k % 16))
  digit 3 ++ digit 2 ++ digit 1 ++ digit 0

/-- R106: an admitted word in the syntax of R103, an illegal word as a `.word` line. SET's immediate is printed in decimal as
in R106's example (DEDUCED, log 16). -/
def disassemble (w : Word16) : String :=
  match decode w with
  | some (.outPins1 ss) => "out pins, 1" ++ sideText ss
  | some (.jmpXDec ss addr) => "jmp x-- " ++ toString addr.toNat ++ sideText ss
  | some (.setX ss imm) => "set x, " ++ toString imm.toNat ++ sideText ss
  | none => ".word 0x" ++ hex4 w ++ " ; illegal"

end Sys2Proof.Machine
end

