-- ==== Sys2Proof/Machine/Ports.lean ====
section
/-! DEFINITION. The output ports (spec/10_state.md R39). -/

namespace Sys2Proof.Machine

/-- `sd` = SD_OUT, the data line. -/
def State.sd (s : State) : Bool := s.eng.sdOut

/-- `bclk` = SIDE_OUT[0], the bit-clock. -/
def State.bclk (s : State) : Bool := s.eng.sideOut.getLsbD 0

/-- `ws` = SIDE_OUT[1], the word-select. -/
def State.ws (s : State) : Bool := s.eng.sideOut.getLsbD 1

/-- The level the block drives on a pin, if the pin is bound to one of its lines. -/
def State.pinLevel (s : State) (pin : Nat) : Option Bool :=
  if pin = s.params.pins.data then some s.sd
  else if pin = s.params.pins.bitClock then some s.bclk
  else if pin = s.params.pins.wordSelect then some s.ws
  else none

end Sys2Proof.Machine
end

