-- ==== Sys2Proof/Machine/Untimed.lean ====
section
/-! DEFINITION. The untimed abstraction of spec/10_state.md R46: the engine's step is `EngineCycle`, the producer's or
loader's step is one register access, interleaved in every order; divider ticks are not counted. `step` does not use
it; it stands here so that a claim can relate the two. -/

namespace Sys2Proof.Machine

/-- A state with what belongs to time taken out: the divider's phase, the coming inputs, the port's last answer. -/
def State.untimed (s : State) : State := { s with divAcc := 0#25, inputs := [], rdata := none }

/-- One move of the abstraction (R46). A running block with INT = 0 records `BadDivisor` and issues nothing (R201). -/
inductive UntimedMove : State → State → Prop where
  | engine (s t : State) (running : s.regs.en = true) (cycle : engineCycle s = .next t) : UntimedMove s t
  | badDivisor (s : State) (running : s.regs.en = true) (zero : s.regs.divInt = 0#16) :
      UntimedMove s (s.refuse .badDivisor)
  | access (s : State) (op : BusOp) : UntimedMove s (portStep op s s).untimed

/-- A run of the abstraction. -/
inductive UntimedRun : State → State → Prop where
  | done (s : State) : UntimedRun s s
  | move (s t u : State) (first : UntimedMove s t) (rest : UntimedRun t u) : UntimedRun s u

end Sys2Proof.Machine
end

