-- ==== Sys2Proof/Safety.lean ====
section
/-! DEFINITION. What counts as a safe run, and the terms the claims use: clean states, the machine's invariant, the words
that enter and leave the FIFO, and runs that keep count of them. -/

namespace Sys2Proof.Machine

/-- "A run with a fault recorded refutes every claim" (R282), and so does one with `refused` set (R283). -/
def State.clean (s : State) : Bool := s.marks.faults.isEmpty && !s.marks.refused

/-- The bits shifted into the OSR since its last load are 0 (R23): its low osr_count bits. -/
abbrev Engine.tailZero (e : Engine) : Prop := ∀ j, j < e.osrCount.toNat → e.osr.getLsbD j = false

/-- The ranges the spec gives the state: parameters (R10, R230), IMEM's canonical form (R28), 0 ≤ level ≤ FIFO_DEPTH
(R29), 0 ≤ osr_count ≤ 32 (R24), the zeros shifted into the OSR (R23), DIV_ACC ≤ 2^24 - 1 (R31), `faults` and `refusals`
sets (R41), idx even and below N (R233). -/
abbrev State.Inv (s : State) : Prop :=
  s.params.wf = true ∧ s.imem.wf = true ∧ s.level ≤ s.params.fifoDepth ∧ s.eng.osrCount.toNat ≤ 32 ∧
  s.eng.tailZero ∧ s.divAcc.toNat < 2 ^ 24 ∧ s.marks.faults.Nodup ∧ s.marks.refusals.Nodup ∧
  s.cpu.idx % 2 = 0 ∧ s.cpu.idx < s.params.wave.length

/-- This cycle's register access is a good TXF write of a word. -/
def txfWrite (s : State) : Option Word32 :=
  match accessOf s.nextInput.op s with
  | .write off width v => if goodAccess off width = true ∧ regAt off = .txf then some v else none
  | .read _ _ => none
  | .none => none

/-- The word the FIFO accepts in this cycle, if `rst` is not asserted (R167). -/
def acceptedWord (s : State) : Option Word32 := if s.level < s.params.fifoDepth then txfWrite s else none

/-- The word an autopull takes in this cycle, if `rst` is not asserted (R125, R126). -/
def poppedWord (s : State) : Option Word32 :=
  if s.tickDue then
    match s.fetch with
    | .instr (.outPins1 _) => if s.eng.osrCount = 32#6 then s.fifo.head? else none
    | _ => none
  else none

/-- In this cycle TXF is written by nobody but the producer (R235). -/
def State.onlyProducerWrites (s : State) : Bool :=
  match s.nextInput.op with
  | .producerTurn => true
  | _ => (txfWrite s).isNone

/-- The producer is about to write only when there is room (R235). -/
abbrev State.ProducerSafe (s : State) : Prop := s.cpu.phase = .enqueue → s.level < s.params.fifoDepth

/-- A run of system cycles without `rst`, each from a state that meets `ok`, with the words popped and the words accepted
in it, in order. -/
inductive QueueRun (ok : State → Prop) : State → List Word32 → List Word32 → State → Prop where
  | done (s : State) : QueueRun ok s [] [] s
  | cycle (s t u : State) (popped accepted : List Word32) (noRst : s.nextInput.rst = false) (good : ok s)
      (first : step s = .next t) (rest : QueueRun ok t popped accepted u) :
      QueueRun ok s ((poppedWord s).toList ++ popped) ((acceptedWord s).toList ++ accepted) u

/-- The instructions `is`, issued one after another. -/
inductive ExecRun : List Instr → State → State → Prop where
  | done (s : State) : ExecRun [] s s
  | issue (i : Instr) (is : List Instr) (s t u : State) (first : exec i s = .next t) (rest : ExecRun is t u) :
      ExecRun (i :: is) s u

/-- An instruction shifts a bit out. -/
def isOut : Instr → Bool
  | .outPins1 _ => true
  | .jmpXDec _ _ => false
  | .setX _ _ => false

/-- A run of `n` system cycles with EN = 1 in each pre-state and no `rst`, with the number of ticks in it (R204). -/
inductive TickRun : Nat → Nat → State → State → Prop where
  | done (s : State) : TickRun 0 0 s s
  | cycle (n k : Nat) (s t u : State) (noRst : s.nextInput.rst = false) (running : s.regs.en = true)
      (first : step s = .next t) (rest : TickRun n k t u) :
      TickRun (n + 1) (s.tickDue.toNat + k) s u

/-- The k-th word of the producer, pack(W[2k mod N], W[(2k + 1) mod N]) (R234). -/
def waveWord (wave : List Int) (k : Nat) : Word32 :=
  pack (wave.getD (2 * k % wave.length) 0) (wave.getD ((2 * k + 1) % wave.length) 0)

end Sys2Proof.Machine
end

