-- ==== Sys2Proof/Certificates/Slice0/Obligations.lean ====
section
/-! DEFINITION. The statements for the provers. Each docstring names the rule of spec/ it formalises. A statement about a
cycle speaks of the register access of that cycle as `accessOf s.nextInput.op s`, so it holds whichever agent makes it. -/

open Sys2Proof Sys2Proof.Machine

/-! ## Encoding -/

/-- Words of each form, and words that are not admitted, read as spec/95_test_vectors.md V2 says. -/
def Obligations.SpecWordsDecode : Prop :=
  decode 0x6001#16 = some (.outPins1 0b00#2) ∧ decode 0x6801#16 = some (.outPins1 0b01#2) ∧
  decode 0x7001#16 = some (.outPins1 0b10#2) ∧ decode 0x7801#16 = some (.outPins1 0b11#2) ∧
  decode 0x1840#16 = some (.jmpXDec 0b11#2 0#5) ∧ decode 0x0844#16 = some (.jmpXDec 0b01#2 4#5) ∧
  decode 0x005F#16 = some (.jmpXDec 0b00#2 31#5) ∧ decode 0xE020#16 = some (.setX 0b00#2 0#5) ∧
  decode 0xE82E#16 = some (.setX 0b01#2 14#5) ∧ decode 0xF83F#16 = some (.setX 0b11#2 31#5) ∧
  decode 0x6000#16 = none ∧ decode 0x6002#16 = none ∧ decode 0x6101#16 = none ∧ decode 0x6021#16 = none ∧
  decode 0x0000#16 = none ∧ decode 0x0740#16 = none ∧ decode 0xE040#16 = none ∧ decode 0xA042#16 = none

/-- R94, R95, R97, R98: decoding and encoding are inverse to each other, on every word and every instruction. -/
def Obligations.DecodeAndEncodeAgree : Prop :=
  ∀ (w : Word16) (i : Instr), decode w = some i ↔ encode i = w

/-- R96, R99: a word has a meaning exactly when one of the three mask-and-match tests admits it. -/
def Obligations.AdmittedWordsAreTheDecodedOnes : Prop :=
  ∀ w : Word16, admitted w = true ↔ ∃ i, decode w = some i

/-- R106: the disassembler's examples. -/
def Obligations.DisassemblerPrintsTheExamples : Prop :=
  disassemble 0x7001#16 = "out pins, 1 side 0b10" ∧ disassemble 0x1840#16 = "jmp x-- 0 side 0b11" ∧
  disassemble 0xF82E#16 = "set x, 14 side 0b11" ∧ disassemble 0xA042#16 = ".word 0xa042 ; illegal"

/-! ## Instructions -/

/-- R124: `next(pc)`, and which instructions set PC to it. -/
def Obligations.CompletedInstructionMovesPc : Prop :=
  (∀ s : State, (s.eng.pc = s.regs.wrapTop → s.nextPc = s.regs.wrapBottom) ∧
    (s.eng.pc ≠ s.regs.wrapTop → s.nextPc.toNat = (s.eng.pc.toNat + 1) % 32)) ∧
  (∀ (ss : SideSet) (imm : BitVec 5) (s : State), ∃ t, exec (.setX ss imm) s = .next t ∧ t.eng.pc = s.nextPc) ∧
  (∀ (ss : SideSet) (s : State), (s.eng.osrCount = 32#6 → s.fifo ≠ []) →
    ∃ t, exec (.outPins1 ss) s = .next t ∧ t.eng.pc = s.nextPc) ∧
  (∀ (ss : SideSet) (addr : ImemAddr) (s : State), s.eng.xWritten = true →
    ∃ t, exec (.jmpXDec ss addr) s = .next t ∧
      t.eng.pc = if s.eng.x = 0#32 then s.nextPc else addr)

/-- R125: `OUT PINS, 1` in its three cases, with everything it changes and nothing else changed. Bit 31 of the word shifted
goes to SD_OUT, {v[30:0], 0} to the OSR. -/
def Obligations.OutPins1ShiftsOneBitOrStalls : Prop :=
  ∀ (ss : SideSet) (s : State),
    (s.eng.osrCount ≠ 32#6 →
      exec (.outPins1 ss) s = .next { s with
        eng := { s.eng with
          pc := s.nextPc, osr := s.eng.osr.extractLsb' 0 31 ++ 0#1, osrCount := s.eng.osrCount + 1#6,
          sdOut := s.eng.osr.getLsbD 31, sideOut := ss } }) ∧
    (∀ v rest, s.eng.osrCount = 32#6 → s.fifo = v :: rest →
      exec (.outPins1 ss) s = .next { s with
        fifo := rest
        eng := { s.eng with
          pc := s.nextPc, osr := v.extractLsb' 0 31 ++ 0#1, osrCount := 1#6, sdOut := v.getLsbD 31, sideOut := ss } }) ∧
    (s.eng.osrCount = 32#6 → s.fifo = [] →
      exec (.outPins1 ss) s = .next { s with
        eng := { s.eng with sideOut := ss }
        marks := { s.marks with underrunSeen := true } })

/-- R63, R126: a pulled word leaves most significant bit first. After the n-th OUT since the OSR was empty, with any other
instructions issued between, the data line carries bit 32 - n of the word that was at the FIFO's head. -/
def Obligations.WordLeavesMsbFirst : Prop :=
  ∀ (is : List Instr) (s t : State) (v : Word32) (rest : List Word32) (n : Nat),
    s.eng.osrCount = 32#6 → s.fifo = v :: rest → ExecRun is s t → is.countP isOut = n → 1 ≤ n → n ≤ 32 →
    t.eng.sdOut = v.getLsbD (32 - n) ∧ t.eng.osrCount.toNat = n ∧ t.fifo = rest

/-- R127: `JMP X--` tests X before the decrement and decrements in every case; with X unwritten it records `XUnwritten`
and changes no engine state (R120). Nothing else changes. -/
def Obligations.JmpXDecDecrementsAndBranches : Prop :=
  ∀ (ss : SideSet) (addr : ImemAddr) (s : State),
    (s.eng.xWritten = true →
      exec (.jmpXDec ss addr) s = .next { s with
        eng := { s.eng with
          pc := if s.eng.x = 0#32 then s.nextPc else addr
          x := BitVec.ofNat 32 (s.eng.x.toNat + (2 ^ 32 - 1))
          sideOut := ss } }) ∧
    (s.eng.xWritten = false →
      ∃ t, exec (.jmpXDec ss addr) s = .next t ∧ Fault.xUnwritten s.eng.pc ∈ t.marks.faults ∧
        { t with marks := s.marks } = s)

/-- R128: `SET X, imm` loads the zero-extended immediate and marks X written; nothing else changes but SIDE_OUT and PC. -/
def Obligations.SetXLoadsTheImmediate : Prop :=
  ∀ (ss : SideSet) (imm : BitVec 5) (s : State),
    exec (.setX ss imm) s = .next { s with
      eng := { s.eng with pc := s.nextPc, x := BitVec.ofNat 32 imm.toNat, xWritten := true, sideOut := ss } }

/-- R123: SIDE_OUT takes the side-set field of every instruction issued, whether it completes or stalls. A `JMP X--` with X
unwritten is not issued (R120). -/
def Obligations.IssuedInstructionWritesSideOut : Prop :=
  ∀ (i : Instr) (s : State), (∀ ss addr, i = .jmpXDec ss addr → s.eng.xWritten = true) →
    ∃ t, exec i s = .next t ∧ t.eng.sideOut = i.side

/-- R129: what no instruction does. IMEM, configuration, FIFO tail, parameters, divider and ports are untouched; only OUT
touches the FIFO head, SD_OUT, OSR and osr_count; only JMP and SET touch X. -/
def Obligations.InstructionFrame : Prop :=
  ∀ (i : Instr) (s t : State), exec i s = .next t →
    (∀ a, t.imem.read a = s.imem.read a) ∧ t.imem = s.imem ∧ t.regs = s.regs ∧ t.params = s.params ∧
    t.divAcc = s.divAcc ∧ t.cpu = s.cpu ∧ t.inputs = s.inputs ∧ t.rdata = s.rdata ∧
    (∃ popped, popped.length ≤ 1 ∧ popped ++ t.fifo = s.fifo) ∧
    ((∀ ss, i ≠ .outPins1 ss) →
      t.fifo = s.fifo ∧ t.eng.sdOut = s.eng.sdOut ∧ t.eng.osr = s.eng.osr ∧ t.eng.osrCount = s.eng.osrCount ∧
      t.marks.underrunSeen = s.marks.underrunSeen) ∧
    ((∃ ss, i = .outPins1 ss) →
      t.eng.x = s.eng.x ∧ t.eng.xWritten = s.eng.xWritten ∧ t.marks.faults = s.marks.faults) ∧
    t.marks.refusals = s.marks.refusals

/-- The spec has faults and refusals recorded while the cycle goes on (R12, R282, R283): every step answers a next state.
That a fault is a mark and not an end is the model's reading (log 2, DEDUCED). -/
def Obligations.EveryStepAnswersANextState : Prop :=
  (∀ (i : Instr) (s : State), ∃ t, exec i s = .next t) ∧ ∀ s : State, ∃ t, step s = .next t

/-! ## The engine cycle within the system cycle -/

/-- R45, R120: in a tick whose IMEM word at PC decodes, the step is that instruction at the state with this cycle's inputs
taken and DIV_ACC updated, followed by the register access of the cycle. -/
def Obligations.StepRunsTheDecodedInstruction : Prop :=
  ∀ (s : State) (w : Word16) (i : Instr), s.nextInput.rst = false → s.tickDue = true →
    s.imem.read s.eng.pc.toNat = some w → decode w = some i →
    step s = thenPort s.nextInput.op s.begin (exec i (s.begin.setDivAcc s.nextDivAcc))

/-- An instruction placed with `State.withFetchWord` is the one the next step issues (the model's own function, log 13). -/
def Obligations.PlacedWordIsIssuedNext : Prop :=
  ∀ (s : State) (nbits w : Nat) (i : Instr), decodeTableWord nbits w = some i →
    (s.withFetchWord nbits w).nextInput.rst = false ∧ (s.withFetchWord nbits w).tickDue = true ∧
    (s.withFetchWord nbits w).fetch = .instr i

/-- R120, R28: in a tick whose IMEM word at PC is unwritten, `ImemUnwritten` is recorded and the engine is unchanged. -/
def Obligations.UnwrittenFetchRecordsTheFault : Prop :=
  ∀ s : State, s.nextInput.rst = false → s.tickDue = true → s.imem.read s.eng.pc.toNat = none →
    ∃ t, step s = .next t ∧ Fault.imemUnwritten s.eng.pc ∈ t.marks.faults ∧ t.eng = s.eng ∧ t.imem = s.imem ∧
      t.fifo = s.fifo ++ (acceptedWord s).toList

/-- R99, R120: in a tick that fetches an illegal word, `IllegalEncoding` is recorded, `refused` is set and the engine is
unchanged, SIDE_OUT included. -/
def Obligations.IllegalWordRecordsTheRefusal : Prop :=
  ∀ (s : State) (w : Word16), s.nextInput.rst = false → s.tickDue = true →
    s.imem.read s.eng.pc.toNat = some w → admitted w = false →
    ∃ t, step s = .next t ∧ Refusal.illegalEncoding s.eng.pc w ∈ t.marks.refusals ∧ t.marks.refused = true ∧
      t.eng = s.eng ∧ t.fifo = s.fifo ++ (acceptedWord s).toList

/-- R121, R203: with EN = 0 in the pre-state there is no engine cycle and DIV_ACC holds, whatever the access; the engine
holds all its state unless PROGCTRL is written, which sets PC only (R175). -/
def Obligations.PausedBlockHoldsItsState : Prop :=
  ∀ s : State, s.nextInput.rst = false → s.regs.en = false →
    ∃ t, step s = .next t ∧ t.divAcc = s.divAcc ∧ { t.eng with pc := s.eng.pc } = s.eng ∧
      ((∀ v, accessOf s.nextInput.op s ≠ .write 0x008#12 32 v) → t.eng = s.eng) ∧
      t.fifo = s.fifo ++ (acceptedWord s).toList ∧ t.marks.underrunSeen = s.marks.underrunSeen

/-- R202 with R201 and R203: the divider in each of its cases, for DIV_ACC in its range. `Dq` is INT × 256 + FRAC and the
sum is DIV_ACC + 256, as natural numbers. -/
def Obligations.DividerStepInEachCase : Prop :=
  ∀ s : State, s.nextInput.rst = false → s.divAcc.toNat < 2 ^ 24 →
    (s.regs.en = false → s.tickDue = false ∧ ∃ t, step s = .next t ∧ t.divAcc = s.divAcc) ∧
    (s.regs.en = true → s.regs.divInt = 0#16 →
      s.tickDue = false ∧ ∃ t, step s = .next t ∧ t.divAcc = s.divAcc ∧ t.eng = s.eng ∧
        Refusal.badDivisor ∈ t.marks.refusals) ∧
    (s.regs.en = true → s.regs.divInt ≠ 0#16 →
      s.regs.divInt.toNat * 256 + s.regs.divFrac.toNat ≤ s.divAcc.toNat + 256 →
      s.tickDue = true ∧ ∃ t, step s = .next t ∧
        t.divAcc.toNat = s.divAcc.toNat + 256 - (s.regs.divInt.toNat * 256 + s.regs.divFrac.toNat)) ∧
    (s.regs.en = true → s.regs.divInt ≠ 0#16 →
      s.divAcc.toNat + 256 < s.regs.divInt.toNat * 256 + s.regs.divFrac.toNat →
      s.tickDue = false ∧ ∃ t, step s = .next t ∧ t.divAcc.toNat = s.divAcc.toNat + 256 ∧ t.eng = s.eng)

/-- R204 (an inference the spec marks derived): over n running cycles from a phase a0 below Dq there are
floor((a0 + 256 n) / Dq) ticks and DIV_ACC ends at (a0 + 256 n) mod Dq. CLKDIV cannot change meanwhile (R174). -/
def Obligations.TickCountOverRunningCycles : Prop :=
  ∀ (n k : Nat) (s u : State), TickRun n k s u → s.regs.divInt ≠ 0#16 → s.divAcc.toNat < s.regs.dq.toNat →
    k = (s.divAcc.toNat + 256 * n) / s.regs.dq.toNat ∧
    u.divAcc.toNat = (s.divAcc.toNat + 256 * n) % s.regs.dq.toNat ∧
    u.regs.dq = s.regs.dq

/-- R21, R23 to R26: the five engine registers other than PC. SD_OUT changes only when an OUT is issued, X only when a JMP or SET is, and the output lines only in
ticks; X once written stays written. -/
def Obligations.EngineRegistersChangeOnlyByTheirInstructions : Prop :=
  ∀ s t : State, s.nextInput.rst = false → step s = .next t →
    (t.eng.sdOut ≠ s.eng.sdOut → s.tickDue = true ∧ ∃ ss, s.fetch = .instr (.outPins1 ss)) ∧
    (t.eng.osr ≠ s.eng.osr ∨ t.eng.osrCount ≠ s.eng.osrCount → s.tickDue = true ∧ ∃ ss, s.fetch = .instr (.outPins1 ss)) ∧
    (t.eng.x ≠ s.eng.x → s.tickDue = true ∧
      ((∃ ss addr, s.fetch = .instr (.jmpXDec ss addr)) ∨ ∃ ss imm, s.fetch = .instr (.setX ss imm))) ∧
    (t.eng.sideOut ≠ s.eng.sideOut → s.tickDue = true ∧ ∃ i, s.fetch = .instr i ∧ t.eng.sideOut = i.side) ∧
    (s.eng.xWritten = true → t.eng.xWritten = true)

/-- R22, R122, R175: PC changes only in a tick that issues an instruction, or by a PROGCTRL write with EN = 0, which sets it
to the ENTRY written. -/
def Obligations.PcChangesOnlyByAnInstructionOrProgctrl : Prop :=
  ∀ s t : State, s.nextInput.rst = false → step s = .next t → t.eng.pc ≠ s.eng.pc →
    (s.tickDue = true ∧ ∃ i, s.fetch = .instr i) ∨
    (s.regs.en = false ∧ ∃ v, accessOf s.nextInput.op s = .write 0x008#12 32 v ∧ t.eng.pc = v.extractLsb' 0 5)

/-- R126, R294: an OUT that needs a word and finds the FIFO empty stalls: only SIDE_OUT changes in the engine,
`underrun_seen` is set, and a word pushed in the same cycle stays in the FIFO for a later tick (R171). -/
def Obligations.EmptyFifoStallsTheOut : Prop :=
  ∀ (s : State) (ss : SideSet), s.nextInput.rst = false → s.tickDue = true → s.fetch = .instr (.outPins1 ss) →
    s.eng.osrCount = 32#6 → s.fifo = [] →
    ∃ t, step s = .next t ∧ t.eng = { s.eng with sideOut := ss } ∧ t.marks.underrunSeen = true ∧
      t.fifo = (acceptedWord s).toList

/-! ## Reset -/

/-- R310: a cycle with `rst` leaves the block in its reset state, whatever it was and whatever access was offered, which
is not performed and returns nothing; the model-only marks start anew. X has no value then: only its mark is stated (log
1). The parameters are no state of the block (R43). -/
def Obligations.RstOverridesTheCycle : Prop :=
  ∀ s : State, s.nextInput.rst = true →
    ∃ t, step s = .next t ∧
      t.eng.pc = 0#5 ∧ t.eng.xWritten = false ∧ t.eng.osr = 0x00000000#32 ∧ t.eng.osrCount = 32#6 ∧
      t.eng.sdOut = false ∧ t.eng.sideOut = 0b00#2 ∧ (∀ a, t.imem.read a = none) ∧ t.fifo = [] ∧ t.divAcc = 0#25 ∧
      t.regs.en = false ∧ t.regs.divInt = 1#16 ∧ t.regs.divFrac = 0#8 ∧ t.regs.entry = 0#5 ∧
      t.regs.wrapBottom = 0#5 ∧ t.regs.wrapTop = 31#5 ∧
      t.marks.faults = [] ∧ t.marks.refused = false ∧ t.marks.underrunSeen = false ∧
      t.rdata = none ∧ t.params = s.params

/-- R311: the reset value of every piece of the block's state, registers as they read, for every parameter set of R10. X
has no value then: only its mark is stated (log 1). -/
def Obligations.ResetStateHasTheSpecValues : Prop :=
  ∀ (p : Params) (inputs : List CycleInput), p.depthOk = true →
    (State.resetWith p inputs).eng.pc = 0#5 ∧ (State.resetWith p inputs).eng.xWritten = false ∧
    (State.resetWith p inputs).eng.osr = 0x00000000#32 ∧ (State.resetWith p inputs).eng.osrCount = 32#6 ∧
    (State.resetWith p inputs).sd = false ∧ (State.resetWith p inputs).eng.sideOut = 0b00#2 ∧
    (∀ a, (State.resetWith p inputs).imem.read a = none) ∧ (State.resetWith p inputs).fifo = [] ∧
    readReg .fstat (State.resetWith p inputs) = 0x00000200#32 ∧ (State.resetWith p inputs).divAcc = 0#25 ∧
    readReg .ctrl (State.resetWith p inputs) = 0x00000000#32 ∧
    readReg .clkdiv (State.resetWith p inputs) = 0x00010000#32 ∧
    readReg .progctrl (State.resetWith p inputs) = 0x001F0000#32 ∧
    (State.resetWith p inputs).marks.faults = [] ∧ (State.resetWith p inputs).marks.refused = false ∧
    (State.resetWith p inputs).marks.underrunSeen = false

/-- The invariant holds after reset, for all legal parameters. -/
def Obligations.ResetMeetsTheInvariant : Prop :=
  (∀ (p : Params) (inputs : List CycleInput), p.wf = true → (State.resetWith p inputs).Inv) ∧ State.reset.Inv

/-- Every step keeps the ranges the spec gives the state (R23, R24, R28, R29, R31, R41, R233): see `State.Inv`. -/
def Obligations.StepKeepsTheInvariant : Prop :=
  ∀ s t : State, s.Inv → step s = .next t → t.Inv

/-- R41, R282, R283, R294: without `rst` no mark is ever lost, and the parameters never change (R43). -/
def Obligations.MarksNeverShrink : Prop :=
  ∀ s t : State, step s = .next t →
    t.params = s.params ∧
    (s.nextInput.rst = false →
      (∀ f ∈ s.marks.faults, f ∈ t.marks.faults) ∧ (∀ r ∈ s.marks.refusals, r ∈ t.marks.refusals) ∧
      (s.marks.refused = true → t.marks.refused = true) ∧
      (s.marks.underrunSeen = true → t.marks.underrunSeen = true))

/-! ## FIFO -/

/-- R171: pop and push of one cycle, both judged on the pre-state, and the level that results (R170). -/
def Obligations.FifoUpdateOfACycle : Prop :=
  ∀ s t : State, s.nextInput.rst = false → step s = .next t →
    (poppedWord s).toList ++ t.fifo = s.fifo ++ (acceptedWord s).toList ∧
    t.level + (poppedWord s).toList.length = s.level + (acceptedWord s).toList.length

/-- R69 (FIFO order): over any run without `rst`, the words popped and then those still held are the words held at first
and then those accepted, in order. -/
def Obligations.FifoIsFirstInFirstOut : Prop :=
  ∀ (s u : State) (popped accepted : List Word32), QueueRun (fun _ => True) s popped accepted u →
    popped ++ u.fifo = s.fifo ++ accepted ∧ (s.fifo = [] → popped <+: accepted)

/-- R167, R178: a TXF write with level < FIFO_DEPTH in the pre-state appends its word at the tail, running or not. -/
def Obligations.TxfWriteBelowDepthIsAccepted : Prop :=
  ∀ (s : State) (w : Word32), s.nextInput.rst = false → accessOf s.nextInput.op s = .write 0x010#12 32 w →
    s.level < s.params.fifoDepth →
    ∃ t, step s = .next t ∧ t.fifo = s.fifo.drop (poppedWord s).toList.length ++ [w]

/-- R168: a TXF write with level = FIFO_DEPTH in the pre-state is dropped and recorded, even if the engine pops. -/
def Obligations.TxfWriteWhenFullIsDropped : Prop :=
  ∀ (s : State) (w : Word32), s.nextInput.rst = false → accessOf s.nextInput.op s = .write 0x010#12 32 w →
    s.level = s.params.fifoDepth →
    ∃ t, step s = .next t ∧ t.fifo = s.fifo.drop (poppedWord s).toList.length ∧
      Fault.overflowWrite w ∈ t.marks.faults

/-! ## Register interface -/

/-- R176, R169: a read of FSTAT returns {0, EMPTY, FULL, LEVEL} of the pre-state. -/
def Obligations.FstatReadReturnsTheOccupancy : Prop :=
  ∀ s : State, s.nextInput.rst = false → accessOf s.nextInput.op s = .read 0x00C#12 32 → s.level ≤ 255 →
    ∃ t v, step s = .next t ∧ t.rdata = some v ∧ (v.extractLsb' 0 8).toNat = s.level ∧
      v.getLsbD 8 = decide (s.level = s.params.fifoDepth) ∧ v.getLsbD 9 = decide (s.level = 0) ∧
      v.extractLsb' 10 22 = 0#22

/-- R65, R70: a good read changes nothing but the value returned, which is the register's in the pre-state: the step is
that of the same cycle without the access. -/
def Obligations.ReadsHaveNoSideEffect : Prop :=
  ∀ (s : State) (off : Offset) (rest : List CycleInput), goodAccess off 32 = true →
    s.inputs = { rst := false, op := .read off 32 } :: rest →
    ∃ t, step { s with inputs := CycleInput.quiet :: rest } = .next t ∧ t.rdata = none ∧
      step s = .next { t with rdata := some (readReg (regAt off) s) }

/-- R173: CTRL reads as EN and its write sets EN from bit 0 and nothing else, at any time. -/
def Obligations.CtrlReadsAndSetsEnable : Prop :=
  ∀ s : State, s.nextInput.rst = false →
    (accessOf s.nextInput.op s = .read 0x000#12 32 →
      ∃ t, step s = .next t ∧ t.rdata = some (if s.regs.en then 1#32 else 0#32) ∧ t.regs = s.regs) ∧
    (∀ v, accessOf s.nextInput.op s = .write 0x000#12 32 v →
      ∃ t, step s = .next t ∧ t.regs = { s.regs with en := v.getLsbD 0 } ∧ t.imem = s.imem)

/-- R174: CLKDIV reads as {INT, FRAC, 0}; its write with EN = 0 sets both fields and not DIV_ACC; with EN = 1 it is not
performed and faulted. -/
def Obligations.ClkdivReadsAndWrites : Prop :=
  ∀ s : State, s.nextInput.rst = false →
    (accessOf s.nextInput.op s = .read 0x004#12 32 →
      ∃ t v, step s = .next t ∧ t.rdata = some v ∧ v.extractLsb' 16 16 = s.regs.divInt ∧
        v.extractLsb' 8 8 = s.regs.divFrac ∧ v.extractLsb' 0 8 = 0#8 ∧ t.regs = s.regs) ∧
    (∀ v, accessOf s.nextInput.op s = .write 0x004#12 32 v → s.regs.en = false →
      ∃ t, step s = .next t ∧ t.eng = s.eng ∧ t.divAcc = s.divAcc ∧
        t.regs = { s.regs with divInt := v.extractLsb' 16 16, divFrac := v.extractLsb' 8 8 } ∧ t.imem = s.imem) ∧
    (∀ v, accessOf s.nextInput.op s = .write 0x004#12 32 v → s.regs.en = true →
      ∃ t, step s = .next t ∧ t.regs = s.regs ∧ Fault.configWhileRunning .clkdiv ∈ t.marks.faults)

/-- R175: PROGCTRL reads as its fields at their places; its write with EN = 0 sets them and PC, and changes no other
engine state and not the FIFO; with EN = 1 it is not performed, is faulted, and PC is the engine's own. -/
def Obligations.ProgctrlReadsAndWrites : Prop :=
  ∀ s : State, s.nextInput.rst = false →
    (accessOf s.nextInput.op s = .read 0x008#12 32 →
      ∃ t v, step s = .next t ∧ t.rdata = some v ∧ v.extractLsb' 0 5 = s.regs.entry ∧ v.extractLsb' 5 3 = 0#3 ∧
        v.extractLsb' 8 5 = s.regs.wrapBottom ∧ v.extractLsb' 13 3 = 0#3 ∧ v.extractLsb' 16 5 = s.regs.wrapTop ∧
        v.extractLsb' 21 11 = 0#11 ∧ t.regs = s.regs) ∧
    (∀ v, accessOf s.nextInput.op s = .write 0x008#12 32 v → s.regs.en = false →
      ∃ t, step s = .next t ∧ t.eng = { s.eng with pc := v.extractLsb' 0 5 } ∧ t.fifo = s.fifo ∧
        t.regs = { s.regs with
          entry := v.extractLsb' 0 5, wrapBottom := v.extractLsb' 8 5, wrapTop := v.extractLsb' 16 5 } ∧
        t.imem = s.imem) ∧
    (∀ v, accessOf s.nextInput.op s = .write 0x008#12 32 v → s.regs.en = true →
      ∃ t u, step s = .next t ∧ dividerTurn s.begin = .next u ∧ t.regs = s.regs ∧ t.eng = u.eng ∧
        Fault.configWhileRunning .progctrl ∈ t.marks.faults)

/-- R177: IMEM_k reads as 0; its write with EN = 0 writes IMEM[k] from v[15:0], whatever word that is, and no other word;
with EN = 1 it is not performed and faulted. -/
def Obligations.ImemReadsAndWrites : Prop :=
  ∀ (s : State) (k : ImemAddr), s.nextInput.rst = false →
    (accessOf s.nextInput.op s = .read (BitVec.ofNat 12 (0x080 + 4 * k.toNat)) 32 →
      ∃ t, step s = .next t ∧ t.rdata = some 0#32 ∧ t.imem = s.imem) ∧
    (∀ v, accessOf s.nextInput.op s = .write (BitVec.ofNat 12 (0x080 + 4 * k.toNat)) 32 v → s.regs.en = false →
      ∃ t, step s = .next t ∧ t.imem.read k.toNat = some (v.extractLsb' 0 16) ∧
        (∀ a, a ≠ k.toNat → t.imem.read a = s.imem.read a) ∧ t.regs = s.regs ∧ t.eng = s.eng) ∧
    (∀ v, accessOf s.nextInput.op s = .write (BitVec.ofNat 12 (0x080 + 4 * k.toNat)) 32 v → s.regs.en = true →
      ∃ t, step s = .next t ∧ t.imem = s.imem ∧ Fault.configWhileRunning (.imem k) ∈ t.marks.faults)

/-- R61: an access of another width, or at an offset that is no multiple of 4, is recorded as `BadAccess`, is not performed
and returns no value: the step is that of the cycle without it, with the fault added. -/
def Obligations.BadAccessIsRecordedAndNotPerformed : Prop :=
  ∀ (s : State) (op : BusOp) (off : Offset) (width : Nat) (rest : List CycleInput),
    (op = .read off width ∨ ∃ v, op = .write off width v) → (width ≠ 32 ∨ off.toNat % 4 ≠ 0) →
    s.inputs = { rst := false, op := op } :: rest →
    ∃ t, step { s with inputs := CycleInput.quiet :: rest } = .next t ∧ t.rdata = none ∧
      step s = .next (t.raise (.badAccess off width))

/-- R67, R66: a 32-bit read of an unmapped offset returns 0 and a write there is ignored; neither is a fault. -/
def Obligations.UnmappedOffsetsReadZeroAndIgnoreWrites : Prop :=
  ∀ (s : State) (op : BusOp) (off : Offset) (rest : List CycleInput),
    off.toNat % 4 = 0 → ((0x014 ≤ off.toNat ∧ off.toNat ≤ 0x07C) ∨ (0x100 ≤ off.toNat ∧ off.toNat ≤ 0xFFC)) →
    s.inputs = { rst := false, op := op } :: rest →
    ∃ t, step { s with inputs := CycleInput.quiet :: rest } = .next t ∧
      (op = .read off 32 → step s = .next { t with rdata := some 0#32 }) ∧
      (∀ v, op = .write off 32 v → step s = .next t)

/-- R176, R178: a write of FSTAT changes nothing and a read of TXF returns 0 and changes nothing. -/
def Obligations.FstatIgnoresWritesAndTxfReadsZero : Prop :=
  ∀ (s : State) (op : BusOp) (rest : List CycleInput), s.inputs = { rst := false, op := op } :: rest →
    ∃ t, step { s with inputs := CycleInput.quiet :: rest } = .next t ∧
      (∀ v, op = .write 0x00C#12 32 v → step s = .next t) ∧
      (op = .read 0x010#12 32 → step s = .next { t with rdata := some 0#32 })

/-- R316, R74: while EN = 1 no access changes IMEM, CLKDIV or PROGCTRL, and no instruction does: a running program cannot
change its own code. -/
def Obligations.RunningBlockKeepsItsConfiguration : Prop :=
  ∀ s t : State, s.nextInput.rst = false → s.regs.en = true → step s = .next t →
    t.imem = s.imem ∧ { t.regs with en := true } = s.regs

/-- R315, R45: what the engine and the divider do in a cycle does not depend on the register access of that cycle, but for
the PC that a PROGCTRL write sets while EN = 0. -/
def Obligations.AccessDoesNotReachTheEngineInItsCycle : Prop :=
  ∀ (s t u : State) (a b : BusOp) (rest : List CycleInput),
    step { s with inputs := { rst := false, op := a } :: rest } = .next t →
    step { s with inputs := { rst := false, op := b } :: rest } = .next u →
    t.divAcc = u.divAcc ∧ { t.eng with pc := u.eng.pc } = u.eng ∧ (s.regs.en = true → t.eng = u.eng) ∧
    t.marks.underrunSeen = u.marks.underrunSeen

/-- R285: a bad divisor and an overflowing TXF write in one cycle are both recorded, and no engine cycle happens. -/
def Obligations.RefusalAndFaultOfOneCycleAreBothRecorded : Prop :=
  ∀ (s : State) (w : Word32), s.nextInput.rst = false → s.regs.en = true → s.regs.divInt = 0#16 →
    accessOf s.nextInput.op s = .write 0x010#12 32 w → s.level = s.params.fifoDepth →
    ∃ t, step s = .next t ∧ Refusal.badDivisor ∈ t.marks.refusals ∧ Fault.overflowWrite w ∈ t.marks.faults ∧
      t.eng = s.eng ∧ t.fifo = s.fifo ∧ t.divAcc = s.divAcc

/-- R39: the three lines on the pins of this build. -/
def Obligations.OutputLinesDriveTheirPins : Prop :=
  ∀ s : State, s.params.pins = { data := 15, bitClock := 13, wordSelect := 14 } →
    s.pinLevel 15 = some s.eng.sdOut ∧ s.pinLevel 13 = some (s.eng.sideOut.getLsbD 0) ∧
    s.pinLevel 14 = some (s.eng.sideOut.getLsbD 1)

/-! ## Packer and divisor calculation -/

/-- R160, R161: where the two samples lie in the word, and how they are read back. -/
def Obligations.PackPutsLeftHighAndRightLow : Prop :=
  (∀ l r : Int, (pack l r).extractLsb' 16 16 = BitVec.ofInt 16 l ∧ (pack l r).extractLsb' 0 16 = BitVec.ofInt 16 r) ∧
  (∀ w : Word32, unpack w = ((w.extractLsb' 16 16).toInt, (w.extractLsb' 0 16).toInt)) ∧
  pack 100 (-100) = 0x0064FF9C#32 ∧ unpack 0x00C8FF38#32 = (200, -200)

/-- R162 (law (b) is an inference the spec marks derived): pack and unpack are inverse to each other. -/
def Obligations.PackAndUnpackAreInverse : Prop :=
  (∀ l r : Int, sampleInRange l = true → sampleInRange r = true → unpack (pack l r) = (l, r)) ∧
  (∀ w : Word32, pack (unpack w).1 (unpack w).2 = w)

/-- R209: with T = 64 × SAMPLE_RATE_HZ, a result is floor((2 × SYSCLK_HZ × 256 + T) / (2 T)) split into INT and FRAC, and
the CLKDIV value is Dq shifted left by 8. -/
def Obligations.CalcDivisorRoundsToNearest : Prop :=
  ∀ (rate clk : Nat) (d : BitVec 16 × BitVec 8), calcDivisor rate clk = .ok d →
    d.1.toNat * 256 + d.2.toNat = (2 * clk * 256 + 64 * rate) / (2 * (64 * rate)) ∧
    (clkdivWord d).toNat = (d.1.toNat * 256 + d.2.toNat) * 256

/-- R210: the errors, in their order, and nothing else is an error. -/
def Obligations.CalcDivisorErrorsInOrder : Prop :=
  ∀ rate clk : Nat,
    (calcDivisor rate clk = .error .invalidInput ↔ rate = 0 ∨ clk = 0) ∧
    (calcDivisor rate clk = .error .outOfRange ↔
      ¬ (rate = 0 ∨ clk = 0) ∧
        ((8 * clk + rate) / (2 * rate) < 256 ∨ 16777215 < (8 * clk + rate) / (2 * rate)))

/-- R211 (an inference the spec marks derived): the produced bit-clock is within 1 / (2 Dq), so within 1/512, of its
target. -/
def Obligations.CalcDivisorIsAccurate : Prop :=
  ∀ (rate clk dq : Nat) (d : BitVec 16 × BitVec 8), calcDivisor rate clk = .ok d →
    dq = d.1.toNat * 256 + d.2.toNat →
    |bitClockRate clk dq - (bitClockTarget rate : Rat)| ≤ (bitClockTarget rate : Rat) / (2 * (dq : Rat)) ∧
    |bitClockRate clk dq - (bitClockTarget rate : Rat)| ≤ (bitClockTarget rate : Rat) / 512

/-- R212 (an inference the spec marks derived): the worked case of the source. -/
def Obligations.CalcDivisorWorkedCase : Prop :=
  calcDivisor 44100 12000000 = .ok (4#16, 64#8) ∧ clkdivWord (4#16, 64#8) = 0x00044000#32 ∧
  bitClockTarget 44100 = 1411200

/-! ## Host agents -/

/-- R231, R232: a turn of the producer, with a legal Waveform and idx at a pair: it reads FSTAT and enqueues next only if
FULL was 0; or it writes pack(W[idx], W[idx + 1]) to TXF, advances idx by 2 modulo N and polls next. -/
def Obligations.ProducerTurnFollowsTheIteration : Prop :=
  ∀ (s : State) (l r : Int), s.nextInput = { rst := false, op := .producerTurn } → s.params.waveOk = true →
    s.params.wave[s.cpu.idx]? = some l → s.params.wave[s.cpu.idx + 1]? = some r →
    (s.cpu.phase = .poll →
      ∃ t, step s = .next t ∧ t.rdata = some (readReg .fstat s) ∧
        t.cpu = { s.cpu with phase := if s.level = s.params.fifoDepth then .poll else .enqueue }) ∧
    (s.cpu.phase = .enqueue →
      txfWrite s = some (pack l r) ∧
      ∃ t, step s = .next t ∧
        t.cpu = { s.cpu with idx := (s.cpu.idx + 2) % s.params.wave.length, phase := .poll })

/-- R235 (an inference the spec marks derived): while nobody but the producer writes TXF, the producer is about to write
only when there is room, and no `OverflowWrite` is recorded. -/
def Obligations.ProducerNeverOverflowsTheFifo : Prop :=
  ∀ s t : State, s.Inv → s.ProducerSafe → s.onlyProducerWrites = true → step s = .next t →
    t.ProducerSafe ∧ ∀ w, Fault.overflowWrite w ∈ t.marks.faults → Fault.overflowWrite w ∈ s.marks.faults

/-- R234, R236 (inferences the spec marks derived): in a run without `rst` in which nobody but the producer writes TXF,
from idx = 0 with the FIFO empty, the k-th word accepted is the k-th word of the Waveform, and so is the k-th popped. -/
def Obligations.WordsFollowTheWaveform : Prop :=
  ∀ (s u : State) (popped accepted : List Word32), s.Inv → s.cpu.idx = 0 → s.cpu.phase = .poll → s.fifo = [] →
    QueueRun (fun q => q.onlyProducerWrites = true) s popped accepted u →
    accepted = (List.range accepted.length).map (waveWord s.params.wave) ∧
    popped = (List.range popped.length).map (waveWord s.params.wave)

/-- R44: what the producer learns and does in its turn depends on the FIFO's occupancy alone, not on the engine, IMEM, the
divider, the configuration or the words held. -/
def Obligations.ProducerSeesOnlyTheOccupancy : Prop :=
  ∀ s t s' t' : State, s.nextInput = { rst := false, op := .producerTurn } →
    t.nextInput = { rst := false, op := .producerTurn } → s.params = t.params → s.cpu = t.cpu → s.level = t.level →
    step s = .next s' → step t = .next t' →
    s'.rdata = t'.rdata ∧ s'.cpu = t'.cpu ∧ txfWrite s = txfWrite t

/-- R251, R313: the loader's writes for the I2S microprogram with a legal divisor; that IMEM comes before CLKDIV and
CLKDIV before PROGCTRL is the model's choice (log 11). -/
def Obligations.LoaderWritesTheMicroprogram : Prop :=
  ∀ (p : Params) (d : BitVec 16 × BitVec 8), p.image = Image.i2s → p.pins.wordSelect = p.pins.bitClock + 1 →
    calcDivisor p.sampleRateHz p.sysclkHz = .ok d →
    loaderScript p = .ok [(0x080#12, 0x7001#32), (0x084#12, 0x1840#32), (0x088#12, 0x6001#32), (0x08C#12, 0xE82E#32),
      (0x090#12, 0x6001#32), (0x094#12, 0x0844#32), (0x098#12, 0x7001#32), (0x09C#12, 0xF82E#32),
      (0x004#12, clkdivWord d), (0x008#12, 0x00070007#32), (0x000#12, 1#32)]

/-- R313: a turn of the loader performs the next write of its script, as a 32-bit access of the port, and moves on by one;
after the last write it makes no access. What the write does is said of every access by the statements of the register
interface. The script's order is the model's choice (log 11). -/
def Obligations.LoaderTurnPerformsItsScript : Prop :=
  ∀ (s : State) (script : List (Offset × Word32)), s.nextInput = { rst := false, op := .loaderTurn } →
    loaderScript s.params = .ok script →
    (∀ off v, script[s.cpu.boot]? = some (off, v) →
      accessOf s.nextInput.op s = .write off 32 v ∧
      ∃ t, step s = .next t ∧ t.rdata = none ∧ t.cpu = { s.cpu with boot := s.cpu.boot + 1 }) ∧
    (script.length ≤ s.cpu.boot →
      accessOf s.nextInput.op s = .none ∧ ∃ t, step s = .next t ∧ t.rdata = none ∧ t.cpu = s.cpu)

/-- R287: a program of more than 32 words, a reachable word that is not admitted, a pin binding that is not adjacent or a
CalcDivisor error aborts the boot. R287 says that EN is not set; that the loader then makes no access at all, and that the
words it looks at are those reachable without regard to the value of X, is the model's choice (log 12, DEDUCED). -/
def Obligations.InitialisationErrorNeverStartsTheBlock : Prop :=
  ∀ s : State, s.nextInput = { rst := false, op := .loaderTurn } →
    (32 < s.params.image.words.length ∨
      (∃ a ∈ imageReachable s.params.image, ∃ w, s.params.image.words[a.toNat]? = some w ∧ admitted w = false) ∨
      s.params.pins.wordSelect ≠ s.params.pins.bitClock + 1 ∨
      ∃ e, calcDivisor s.params.sampleRateHz s.params.sysclkHz = .error e) →
    accessOf s.nextInput.op s = .none ∧
    ∃ t, step s = .next t ∧ t.regs = s.regs ∧ t.imem = s.imem ∧ t.cpu = s.cpu

/-! ## The untimed abstraction -/

/-- R46: every system cycle without `rst` is a run of the untimed abstraction, when FIFO_DEPTH ≥ 1. Each `raise` adds to a
set, and the abstraction may meet the engine's and the access's in either order. -/
def Obligations.EveryCycleIsAnUntimedRun : Prop :=
  ∀ s t : State, s.params.depthOk = true → s.nextInput.rst = false → step s = .next t →
    UntimedRun s.untimed t.untimed
end

