-- ==== Sys2Proof/Laws/State.lean ====
section
/-! SUPPORT. What each named update of Machine/Ops.lean does to each field of the state. -/

namespace Sys2Proof.Machine

@[simp] theorem State.raise_params (f : Fault) (s : State) : (s.raise f).params = s.params := rfl
@[simp] theorem State.raise_eng (f : Fault) (s : State) : (s.raise f).eng = s.eng := rfl
@[simp] theorem State.raise_imem (f : Fault) (s : State) : (s.raise f).imem = s.imem := rfl
@[simp] theorem State.raise_fifo (f : Fault) (s : State) : (s.raise f).fifo = s.fifo := rfl
@[simp] theorem State.raise_divAcc (f : Fault) (s : State) : (s.raise f).divAcc = s.divAcc := rfl
@[simp] theorem State.raise_regs (f : Fault) (s : State) : (s.raise f).regs = s.regs := rfl
@[simp] theorem State.raise_marks (f : Fault) (s : State) :
    (s.raise f).marks = { s.marks with faults := insertNew f s.marks.faults } := rfl
@[simp] theorem State.raise_cpu (f : Fault) (s : State) : (s.raise f).cpu = s.cpu := rfl
@[simp] theorem State.raise_inputs (f : Fault) (s : State) : (s.raise f).inputs = s.inputs := rfl
@[simp] theorem State.raise_rdata (f : Fault) (s : State) : (s.raise f).rdata = s.rdata := rfl

@[simp] theorem State.refuse_params (r : Refusal) (s : State) : (s.refuse r).params = s.params := rfl
@[simp] theorem State.refuse_eng (r : Refusal) (s : State) : (s.refuse r).eng = s.eng := rfl
@[simp] theorem State.refuse_imem (r : Refusal) (s : State) : (s.refuse r).imem = s.imem := rfl
@[simp] theorem State.refuse_fifo (r : Refusal) (s : State) : (s.refuse r).fifo = s.fifo := rfl
@[simp] theorem State.refuse_divAcc (r : Refusal) (s : State) : (s.refuse r).divAcc = s.divAcc := rfl
@[simp] theorem State.refuse_regs (r : Refusal) (s : State) : (s.refuse r).regs = s.regs := rfl
@[simp] theorem State.refuse_marks (r : Refusal) (s : State) :
    (s.refuse r).marks = { s.marks with refusals := insertNew r s.marks.refusals } := rfl
@[simp] theorem State.refuse_cpu (r : Refusal) (s : State) : (s.refuse r).cpu = s.cpu := rfl
@[simp] theorem State.refuse_inputs (r : Refusal) (s : State) : (s.refuse r).inputs = s.inputs := rfl
@[simp] theorem State.refuse_rdata (r : Refusal) (s : State) : (s.refuse r).rdata = s.rdata := rfl

@[simp] theorem State.noteUnderrun_params (s : State) : s.noteUnderrun.params = s.params := rfl
@[simp] theorem State.noteUnderrun_eng (s : State) : s.noteUnderrun.eng = s.eng := rfl
@[simp] theorem State.noteUnderrun_imem (s : State) : s.noteUnderrun.imem = s.imem := rfl
@[simp] theorem State.noteUnderrun_fifo (s : State) : s.noteUnderrun.fifo = s.fifo := rfl
@[simp] theorem State.noteUnderrun_divAcc (s : State) : s.noteUnderrun.divAcc = s.divAcc := rfl
@[simp] theorem State.noteUnderrun_regs (s : State) : s.noteUnderrun.regs = s.regs := rfl
@[simp] theorem State.noteUnderrun_marks (s : State) : s.noteUnderrun.marks = { s.marks with underrunSeen := true } := rfl
@[simp] theorem State.noteUnderrun_cpu (s : State) : s.noteUnderrun.cpu = s.cpu := rfl
@[simp] theorem State.noteUnderrun_inputs (s : State) : s.noteUnderrun.inputs = s.inputs := rfl
@[simp] theorem State.noteUnderrun_rdata (s : State) : s.noteUnderrun.rdata = s.rdata := rfl

@[simp] theorem State.issue_params (ss : SideSet) (s : State) : (s.issue ss).params = s.params := rfl
@[simp] theorem State.issue_eng (ss : SideSet) (s : State) : (s.issue ss).eng = { s.eng with sideOut := ss } := rfl
@[simp] theorem State.issue_imem (ss : SideSet) (s : State) : (s.issue ss).imem = s.imem := rfl
@[simp] theorem State.issue_fifo (ss : SideSet) (s : State) : (s.issue ss).fifo = s.fifo := rfl
@[simp] theorem State.issue_divAcc (ss : SideSet) (s : State) : (s.issue ss).divAcc = s.divAcc := rfl
@[simp] theorem State.issue_regs (ss : SideSet) (s : State) : (s.issue ss).regs = s.regs := rfl
@[simp] theorem State.issue_marks (ss : SideSet) (s : State) : (s.issue ss).marks = s.marks := rfl
@[simp] theorem State.issue_cpu (ss : SideSet) (s : State) : (s.issue ss).cpu = s.cpu := rfl
@[simp] theorem State.issue_inputs (ss : SideSet) (s : State) : (s.issue ss).inputs = s.inputs := rfl
@[simp] theorem State.issue_rdata (ss : SideSet) (s : State) : (s.issue ss).rdata = s.rdata := rfl

@[simp] theorem State.goto_params (a : ImemAddr) (s : State) : (s.goto a).params = s.params := rfl
@[simp] theorem State.goto_eng (a : ImemAddr) (s : State) : (s.goto a).eng = { s.eng with pc := a } := rfl
@[simp] theorem State.goto_imem (a : ImemAddr) (s : State) : (s.goto a).imem = s.imem := rfl
@[simp] theorem State.goto_fifo (a : ImemAddr) (s : State) : (s.goto a).fifo = s.fifo := rfl
@[simp] theorem State.goto_divAcc (a : ImemAddr) (s : State) : (s.goto a).divAcc = s.divAcc := rfl
@[simp] theorem State.goto_regs (a : ImemAddr) (s : State) : (s.goto a).regs = s.regs := rfl
@[simp] theorem State.goto_marks (a : ImemAddr) (s : State) : (s.goto a).marks = s.marks := rfl
@[simp] theorem State.goto_cpu (a : ImemAddr) (s : State) : (s.goto a).cpu = s.cpu := rfl
@[simp] theorem State.goto_inputs (a : ImemAddr) (s : State) : (s.goto a).inputs = s.inputs := rfl
@[simp] theorem State.goto_rdata (a : ImemAddr) (s : State) : (s.goto a).rdata = s.rdata := rfl

@[simp] theorem State.writeX_params (v : Word32) (s : State) : (s.writeX v).params = s.params := rfl
@[simp] theorem State.writeX_eng (v : Word32) (s : State) : (s.writeX v).eng = { s.eng with x := v, xWritten := true } := rfl
@[simp] theorem State.writeX_imem (v : Word32) (s : State) : (s.writeX v).imem = s.imem := rfl
@[simp] theorem State.writeX_fifo (v : Word32) (s : State) : (s.writeX v).fifo = s.fifo := rfl
@[simp] theorem State.writeX_divAcc (v : Word32) (s : State) : (s.writeX v).divAcc = s.divAcc := rfl
@[simp] theorem State.writeX_regs (v : Word32) (s : State) : (s.writeX v).regs = s.regs := rfl
@[simp] theorem State.writeX_marks (v : Word32) (s : State) : (s.writeX v).marks = s.marks := rfl
@[simp] theorem State.writeX_cpu (v : Word32) (s : State) : (s.writeX v).cpu = s.cpu := rfl
@[simp] theorem State.writeX_inputs (v : Word32) (s : State) : (s.writeX v).inputs = s.inputs := rfl
@[simp] theorem State.writeX_rdata (v : Word32) (s : State) : (s.writeX v).rdata = s.rdata := rfl

@[simp] theorem State.shiftOut_params (v : Word32) (n : BitVec 6) (s : State) : (s.shiftOut v n).params = s.params := rfl
@[simp] theorem State.shiftOut_eng (v : Word32) (n : BitVec 6) (s : State) :
    (s.shiftOut v n).eng = { s.eng with sdOut := v.msb, osr := v <<< 1, osrCount := n + 1#6 } := rfl
@[simp] theorem State.shiftOut_imem (v : Word32) (n : BitVec 6) (s : State) : (s.shiftOut v n).imem = s.imem := rfl
@[simp] theorem State.shiftOut_fifo (v : Word32) (n : BitVec 6) (s : State) : (s.shiftOut v n).fifo = s.fifo := rfl
@[simp] theorem State.shiftOut_divAcc (v : Word32) (n : BitVec 6) (s : State) : (s.shiftOut v n).divAcc = s.divAcc := rfl
@[simp] theorem State.shiftOut_regs (v : Word32) (n : BitVec 6) (s : State) : (s.shiftOut v n).regs = s.regs := rfl
@[simp] theorem State.shiftOut_marks (v : Word32) (n : BitVec 6) (s : State) : (s.shiftOut v n).marks = s.marks := rfl
@[simp] theorem State.shiftOut_cpu (v : Word32) (n : BitVec 6) (s : State) : (s.shiftOut v n).cpu = s.cpu := rfl
@[simp] theorem State.shiftOut_inputs (v : Word32) (n : BitVec 6) (s : State) : (s.shiftOut v n).inputs = s.inputs := rfl
@[simp] theorem State.shiftOut_rdata (v : Word32) (n : BitVec 6) (s : State) : (s.shiftOut v n).rdata = s.rdata := rfl

@[simp] theorem State.popFifo_params (s : State) : s.popFifo.params = s.params := rfl
@[simp] theorem State.popFifo_eng (s : State) : s.popFifo.eng = s.eng := rfl
@[simp] theorem State.popFifo_imem (s : State) : s.popFifo.imem = s.imem := rfl
@[simp] theorem State.popFifo_fifo (s : State) : s.popFifo.fifo = s.fifo.tail := rfl
@[simp] theorem State.popFifo_divAcc (s : State) : s.popFifo.divAcc = s.divAcc := rfl
@[simp] theorem State.popFifo_regs (s : State) : s.popFifo.regs = s.regs := rfl
@[simp] theorem State.popFifo_marks (s : State) : s.popFifo.marks = s.marks := rfl
@[simp] theorem State.popFifo_cpu (s : State) : s.popFifo.cpu = s.cpu := rfl
@[simp] theorem State.popFifo_inputs (s : State) : s.popFifo.inputs = s.inputs := rfl
@[simp] theorem State.popFifo_rdata (s : State) : s.popFifo.rdata = s.rdata := rfl

@[simp] theorem State.pushFifo_params (w : Word32) (s : State) : (s.pushFifo w).params = s.params := rfl
@[simp] theorem State.pushFifo_eng (w : Word32) (s : State) : (s.pushFifo w).eng = s.eng := rfl
@[simp] theorem State.pushFifo_imem (w : Word32) (s : State) : (s.pushFifo w).imem = s.imem := rfl
@[simp] theorem State.pushFifo_fifo (w : Word32) (s : State) : (s.pushFifo w).fifo = s.fifo ++ [w] := rfl
@[simp] theorem State.pushFifo_divAcc (w : Word32) (s : State) : (s.pushFifo w).divAcc = s.divAcc := rfl
@[simp] theorem State.pushFifo_regs (w : Word32) (s : State) : (s.pushFifo w).regs = s.regs := rfl
@[simp] theorem State.pushFifo_marks (w : Word32) (s : State) : (s.pushFifo w).marks = s.marks := rfl
@[simp] theorem State.pushFifo_cpu (w : Word32) (s : State) : (s.pushFifo w).cpu = s.cpu := rfl
@[simp] theorem State.pushFifo_inputs (w : Word32) (s : State) : (s.pushFifo w).inputs = s.inputs := rfl
@[simp] theorem State.pushFifo_rdata (w : Word32) (s : State) : (s.pushFifo w).rdata = s.rdata := rfl

@[simp] theorem State.setDivAcc_params (a : BitVec 25) (s : State) : (s.setDivAcc a).params = s.params := rfl
@[simp] theorem State.setDivAcc_eng (a : BitVec 25) (s : State) : (s.setDivAcc a).eng = s.eng := rfl
@[simp] theorem State.setDivAcc_imem (a : BitVec 25) (s : State) : (s.setDivAcc a).imem = s.imem := rfl
@[simp] theorem State.setDivAcc_fifo (a : BitVec 25) (s : State) : (s.setDivAcc a).fifo = s.fifo := rfl
@[simp] theorem State.setDivAcc_divAcc (a : BitVec 25) (s : State) : (s.setDivAcc a).divAcc = a := rfl
@[simp] theorem State.setDivAcc_regs (a : BitVec 25) (s : State) : (s.setDivAcc a).regs = s.regs := rfl
@[simp] theorem State.setDivAcc_marks (a : BitVec 25) (s : State) : (s.setDivAcc a).marks = s.marks := rfl
@[simp] theorem State.setDivAcc_cpu (a : BitVec 25) (s : State) : (s.setDivAcc a).cpu = s.cpu := rfl
@[simp] theorem State.setDivAcc_inputs (a : BitVec 25) (s : State) : (s.setDivAcc a).inputs = s.inputs := rfl
@[simp] theorem State.setDivAcc_rdata (a : BitVec 25) (s : State) : (s.setDivAcc a).rdata = s.rdata := rfl

@[simp] theorem State.setEn_params (e : Bool) (s : State) : (s.setEn e).params = s.params := rfl
@[simp] theorem State.setEn_eng (e : Bool) (s : State) : (s.setEn e).eng = s.eng := rfl
@[simp] theorem State.setEn_imem (e : Bool) (s : State) : (s.setEn e).imem = s.imem := rfl
@[simp] theorem State.setEn_fifo (e : Bool) (s : State) : (s.setEn e).fifo = s.fifo := rfl
@[simp] theorem State.setEn_divAcc (e : Bool) (s : State) : (s.setEn e).divAcc = s.divAcc := rfl
@[simp] theorem State.setEn_regs (e : Bool) (s : State) : (s.setEn e).regs = { s.regs with en := e } := rfl
@[simp] theorem State.setEn_marks (e : Bool) (s : State) : (s.setEn e).marks = s.marks := rfl
@[simp] theorem State.setEn_cpu (e : Bool) (s : State) : (s.setEn e).cpu = s.cpu := rfl
@[simp] theorem State.setEn_inputs (e : Bool) (s : State) : (s.setEn e).inputs = s.inputs := rfl
@[simp] theorem State.setEn_rdata (e : Bool) (s : State) : (s.setEn e).rdata = s.rdata := rfl

@[simp] theorem State.setClkdiv_params (v : Word32) (s : State) : (s.setClkdiv v).params = s.params := rfl
@[simp] theorem State.setClkdiv_eng (v : Word32) (s : State) : (s.setClkdiv v).eng = s.eng := rfl
@[simp] theorem State.setClkdiv_imem (v : Word32) (s : State) : (s.setClkdiv v).imem = s.imem := rfl
@[simp] theorem State.setClkdiv_fifo (v : Word32) (s : State) : (s.setClkdiv v).fifo = s.fifo := rfl
@[simp] theorem State.setClkdiv_divAcc (v : Word32) (s : State) : (s.setClkdiv v).divAcc = s.divAcc := rfl
@[simp] theorem State.setClkdiv_regs (v : Word32) (s : State) :
    (s.setClkdiv v).regs = { s.regs with divInt := v.extractLsb' 16 16, divFrac := v.extractLsb' 8 8 } := rfl
@[simp] theorem State.setClkdiv_marks (v : Word32) (s : State) : (s.setClkdiv v).marks = s.marks := rfl
@[simp] theorem State.setClkdiv_cpu (v : Word32) (s : State) : (s.setClkdiv v).cpu = s.cpu := rfl
@[simp] theorem State.setClkdiv_inputs (v : Word32) (s : State) : (s.setClkdiv v).inputs = s.inputs := rfl
@[simp] theorem State.setClkdiv_rdata (v : Word32) (s : State) : (s.setClkdiv v).rdata = s.rdata := rfl

@[simp] theorem State.setProgctrl_params (v : Word32) (s : State) : (s.setProgctrl v).params = s.params := rfl
@[simp] theorem State.setProgctrl_eng (v : Word32) (s : State) : (s.setProgctrl v).eng = { s.eng with pc := v.extractLsb' 0 5 } := rfl
@[simp] theorem State.setProgctrl_imem (v : Word32) (s : State) : (s.setProgctrl v).imem = s.imem := rfl
@[simp] theorem State.setProgctrl_fifo (v : Word32) (s : State) : (s.setProgctrl v).fifo = s.fifo := rfl
@[simp] theorem State.setProgctrl_divAcc (v : Word32) (s : State) : (s.setProgctrl v).divAcc = s.divAcc := rfl
@[simp] theorem State.setProgctrl_regs (v : Word32) (s : State) :
    (s.setProgctrl v).regs = { s.regs with entry := v.extractLsb' 0 5, wrapBottom := v.extractLsb' 8 5, wrapTop := v.extractLsb' 16 5 } := rfl
@[simp] theorem State.setProgctrl_marks (v : Word32) (s : State) : (s.setProgctrl v).marks = s.marks := rfl
@[simp] theorem State.setProgctrl_cpu (v : Word32) (s : State) : (s.setProgctrl v).cpu = s.cpu := rfl
@[simp] theorem State.setProgctrl_inputs (v : Word32) (s : State) : (s.setProgctrl v).inputs = s.inputs := rfl
@[simp] theorem State.setProgctrl_rdata (v : Word32) (s : State) : (s.setProgctrl v).rdata = s.rdata := rfl

@[simp] theorem State.writeImem_params (k : ImemAddr) (v : Word16) (s : State) : (s.writeImem k v).params = s.params := rfl
@[simp] theorem State.writeImem_eng (k : ImemAddr) (v : Word16) (s : State) : (s.writeImem k v).eng = s.eng := rfl
@[simp] theorem State.writeImem_imem (k : ImemAddr) (v : Word16) (s : State) : (s.writeImem k v).imem = s.imem.write k.toNat v := rfl
@[simp] theorem State.writeImem_fifo (k : ImemAddr) (v : Word16) (s : State) : (s.writeImem k v).fifo = s.fifo := rfl
@[simp] theorem State.writeImem_divAcc (k : ImemAddr) (v : Word16) (s : State) : (s.writeImem k v).divAcc = s.divAcc := rfl
@[simp] theorem State.writeImem_regs (k : ImemAddr) (v : Word16) (s : State) : (s.writeImem k v).regs = s.regs := rfl
@[simp] theorem State.writeImem_marks (k : ImemAddr) (v : Word16) (s : State) : (s.writeImem k v).marks = s.marks := rfl
@[simp] theorem State.writeImem_cpu (k : ImemAddr) (v : Word16) (s : State) : (s.writeImem k v).cpu = s.cpu := rfl
@[simp] theorem State.writeImem_inputs (k : ImemAddr) (v : Word16) (s : State) : (s.writeImem k v).inputs = s.inputs := rfl
@[simp] theorem State.writeImem_rdata (k : ImemAddr) (v : Word16) (s : State) : (s.writeImem k v).rdata = s.rdata := rfl

@[simp] theorem State.setRdata_params (v : Word32) (s : State) : (s.setRdata v).params = s.params := rfl
@[simp] theorem State.setRdata_eng (v : Word32) (s : State) : (s.setRdata v).eng = s.eng := rfl
@[simp] theorem State.setRdata_imem (v : Word32) (s : State) : (s.setRdata v).imem = s.imem := rfl
@[simp] theorem State.setRdata_fifo (v : Word32) (s : State) : (s.setRdata v).fifo = s.fifo := rfl
@[simp] theorem State.setRdata_divAcc (v : Word32) (s : State) : (s.setRdata v).divAcc = s.divAcc := rfl
@[simp] theorem State.setRdata_regs (v : Word32) (s : State) : (s.setRdata v).regs = s.regs := rfl
@[simp] theorem State.setRdata_marks (v : Word32) (s : State) : (s.setRdata v).marks = s.marks := rfl
@[simp] theorem State.setRdata_cpu (v : Word32) (s : State) : (s.setRdata v).cpu = s.cpu := rfl
@[simp] theorem State.setRdata_inputs (v : Word32) (s : State) : (s.setRdata v).inputs = s.inputs := rfl
@[simp] theorem State.setRdata_rdata (v : Word32) (s : State) : (s.setRdata v).rdata = some v := rfl

@[simp] theorem State.setCpu_params (c : Cpu) (s : State) : (s.setCpu c).params = s.params := rfl
@[simp] theorem State.setCpu_eng (c : Cpu) (s : State) : (s.setCpu c).eng = s.eng := rfl
@[simp] theorem State.setCpu_imem (c : Cpu) (s : State) : (s.setCpu c).imem = s.imem := rfl
@[simp] theorem State.setCpu_fifo (c : Cpu) (s : State) : (s.setCpu c).fifo = s.fifo := rfl
@[simp] theorem State.setCpu_divAcc (c : Cpu) (s : State) : (s.setCpu c).divAcc = s.divAcc := rfl
@[simp] theorem State.setCpu_regs (c : Cpu) (s : State) : (s.setCpu c).regs = s.regs := rfl
@[simp] theorem State.setCpu_marks (c : Cpu) (s : State) : (s.setCpu c).marks = s.marks := rfl
@[simp] theorem State.setCpu_cpu (c : Cpu) (s : State) : (s.setCpu c).cpu = c := rfl
@[simp] theorem State.setCpu_inputs (c : Cpu) (s : State) : (s.setCpu c).inputs = s.inputs := rfl
@[simp] theorem State.setCpu_rdata (c : Cpu) (s : State) : (s.setCpu c).rdata = s.rdata := rfl

@[simp] theorem State.begin_params (s : State) : s.begin.params = s.params := rfl
@[simp] theorem State.begin_eng (s : State) : s.begin.eng = s.eng := rfl
@[simp] theorem State.begin_imem (s : State) : s.begin.imem = s.imem := rfl
@[simp] theorem State.begin_fifo (s : State) : s.begin.fifo = s.fifo := rfl
@[simp] theorem State.begin_divAcc (s : State) : s.begin.divAcc = s.divAcc := rfl
@[simp] theorem State.begin_regs (s : State) : s.begin.regs = s.regs := rfl
@[simp] theorem State.begin_marks (s : State) : s.begin.marks = s.marks := rfl
@[simp] theorem State.begin_cpu (s : State) : s.begin.cpu = s.cpu := rfl
@[simp] theorem State.begin_inputs (s : State) : s.begin.inputs = s.inputs.tail := rfl
@[simp] theorem State.begin_rdata (s : State) : s.begin.rdata = none := rfl

end Sys2Proof.Machine
end

