-- ==== Sys2Proof/Laws/Ops.lean ====
section
/-! SUPPORT. One lemma for each shared operation that says everything it can do; callers cite it instead of unfolding the
operation. -/

namespace Sys2Proof.Machine

/-- A set after an insertion holds what it held and the new element. -/
@[simp] theorem mem_insertNew {α : Type} [DecidableEq α] (a b : α) (l : List α) :
    b ∈ insertNew a l ↔ b ∈ l ∨ b = a := by
  unfold insertNew
  split
  · rename_i h
    exact ⟨Or.inl, fun hb => hb.elim id fun e => e ▸ h⟩
  · simp

/-- A list without repeats stays one. -/
theorem nodup_insertNew {α : Type} [DecidableEq α] (a : α) (l : List α) (h : l.Nodup) : (insertNew a l).Nodup := by
  unfold insertNew
  split
  · exact h
  · rename_i hn
    exact List.nodup_append.mpr ⟨h, by simp, fun x hx y hy e => hn (by simp_all)⟩

/-- A configuration write is performed with EN = 0 and faulted with EN = 1. -/
theorem configWrite_cases (r : ConfigReg) (written pre post : State) :
    (pre.regs.en = false ∧ configWrite r written pre post = written) ∨
      (pre.regs.en = true ∧ configWrite r written pre post = post.raise (.configWhileRunning r)) := by
  cases h : pre.regs.en <;> simp [configWrite, h]

/-- A TXF write is accepted below FIFO_DEPTH, dropped with a fault at it, and ignored above it (no reachable state). -/
theorem pushTxf_cases (w : Word32) (pre post : State) :
    (pre.level < pre.params.fifoDepth ∧ pushTxf w pre post = post.pushFifo w) ∨
      (pre.level = pre.params.fifoDepth ∧ pushTxf w pre post = post.raise (.overflowWrite w)) ∨
      (pre.params.fifoDepth < pre.level ∧ pushTxf w pre post = post) := by
  rcases Nat.lt_trichotomy pre.level pre.params.fifoDepth with h | h | h
  · exact .inl ⟨h, by simp [pushTxf, h]⟩
  · exact .inr (.inl ⟨h, by simp [pushTxf, h]⟩)
  · exact .inr (.inr ⟨h, by simp [pushTxf, Nat.not_lt.mpr (Nat.le_of_lt h), Nat.ne_of_gt h]⟩)

/-- What a bus access does: nothing, a read answered or faulted, a write performed or faulted. -/
theorem busStep_cases (a : Access) (pre post : State) :
    (a = .none ∧ busStep a pre post = post) ∨
      (∃ off width, a = .read off width ∧ goodAccess off width = true ∧
        busStep a pre post = post.setRdata (readReg (regAt off) pre)) ∨
      (∃ off width v, a = .write off width v ∧ goodAccess off width = true ∧
        busStep a pre post = writeReg (regAt off) v pre post) ∨
      (∃ off width, (a = .read off width ∨ ∃ v, a = .write off width v) ∧ goodAccess off width = false ∧
        busStep a pre post = post.raise (.badAccess off width)) := by
  cases a with
  | none => exact .inl ⟨rfl, rfl⟩
  | read off width =>
    cases h : goodAccess off width
    · exact .inr (.inr (.inr ⟨off, width, .inl rfl, h, by simp [busStep, h]⟩))
    · exact .inr (.inl ⟨off, width, rfl, h, by simp [busStep, h]⟩)
  | write off width v =>
    cases h : goodAccess off width
    · exact .inr (.inr (.inr ⟨off, width, .inr ⟨v, rfl⟩, h, by simp [busStep, h]⟩))
    · exact .inr (.inr (.inl ⟨off, width, v, rfl, h, by simp [busStep, h]⟩))

/-- What `exec` can answer for `OUT PINS, 1`: a shift, an autopull with a shift, or a stall. -/
theorem execOutPins1_cases (ss : SideSet) (s : State) :
    (s.eng.osrCount ≠ 32#6 ∧ execOutPins1 ss s =
        .next (((s.issue ss).shiftOut s.eng.osr s.eng.osrCount).goto s.nextPc)) ∨
      (s.eng.osrCount = 32#6 ∧ ∃ v rest, s.fifo = v :: rest ∧ execOutPins1 ss s =
        .next (((s.issue ss).popFifo.shiftOut v 0#6).goto s.nextPc)) ∨
      (s.eng.osrCount = 32#6 ∧ s.fifo = [] ∧ execOutPins1 ss s = .next (s.issue ss).noteUnderrun) := by
  by_cases hc : s.eng.osrCount = 32#6
  · cases hf : s.fifo with
    | nil => exact .inr (.inr ⟨hc, rfl, by simp [execOutPins1, hc, hf]⟩)
    | cons v rest => exact .inr (.inl ⟨hc, v, rest, rfl, by simp [execOutPins1, hc, hf]⟩)
  · exact .inl ⟨hc, by simp [execOutPins1, hc]⟩

/-- What `exec` can answer for `JMP X--`: the jump, or the fault that leaves the engine alone. -/
theorem execJmpXDec_cases (ss : SideSet) (addr : ImemAddr) (s : State) :
    (s.eng.xWritten = true ∧ execJmpXDec ss addr s =
        .next (((s.issue ss).writeX (s.eng.x - 1#32)).goto (if s.xNonzero then jumpTarget addr else s.nextPc))) ∨
      (s.eng.xWritten = false ∧ execJmpXDec ss addr s = .next (s.raise (.xUnwritten s.eng.pc))) := by
  cases h : s.eng.xWritten <;> simp [execJmpXDec, h]

/-- What `DividerStep` can answer, with the condition of each answer. -/
theorem dividerStep_cases (s : State) :
    (s.regs.en = false ∧ dividerStep s = .paused) ∨
      (s.regs.en = true ∧ s.regs.divInt = 0#16 ∧ dividerStep s = .badDivisor) ∨
      (s.regs.en = true ∧ s.regs.divInt ≠ 0#16 ∧ ¬ s.regs.dq.setWidth 25 ≤ s.divAcc + 256#25 ∧
        dividerStep s = .noTick (s.divAcc + 256#25)) ∨
      (s.regs.en = true ∧ s.regs.divInt ≠ 0#16 ∧ s.regs.dq.setWidth 25 ≤ s.divAcc + 256#25 ∧
        dividerStep s = .tick (s.divAcc + 256#25 - s.regs.dq.setWidth 25)) := by
  cases he : s.regs.en
  · simp [dividerStep, he]
  · by_cases hi : s.regs.divInt = 0#16
    · simp [dividerStep, he, hi]
    · by_cases ht : s.regs.dq.setWidth 25 ≤ s.divAcc + 256#25
      · simp [dividerStep, he, hi, ht]
      · simp [dividerStep, he, hi, ht]

/-- A step is a reset or the divider's and the engine's part followed by the port's. -/
theorem step_cases (s : State) :
    (s.nextInput.rst = true ∧ step s = .next s.afterRst) ∨
      (s.nextInput.rst = false ∧ step s = thenPort s.nextInput.op s.begin (dividerTurn s.begin)) := by
  cases h : s.nextInput.rst <;> simp [step, systemCycle, h]

/-- What the divider's and the engine's part can answer. -/
theorem dividerTurn_cases (s : State) :
    (dividerStep s = .paused ∧ dividerTurn s = .next s) ∨
      (dividerStep s = .badDivisor ∧ dividerTurn s = .next (s.refuse .badDivisor)) ∨
      (∃ acc, dividerStep s = .noTick acc ∧ dividerTurn s = .next (s.setDivAcc acc)) ∨
      (∃ acc, dividerStep s = .tick acc ∧ dividerTurn s = engineCycle (s.setDivAcc acc)) := by
  cases h : dividerStep s <;> simp [dividerTurn, h]

/-- What an engine cycle can answer: a fault or a refusal of the fetch, or the instruction. -/
theorem engineCycle_cases (s : State) :
    (s.fetch = .unwritten ∧ engineCycle s = .next (s.raise (.imemUnwritten s.eng.pc))) ∨
      (∃ w, s.fetch = .illegal w ∧ engineCycle s = .next (s.refuse (.illegalEncoding s.eng.pc w))) ∨
      (∃ i, s.fetch = .instr i ∧ engineCycle s = exec i s) := by
  cases h : s.fetch <;> simp [engineCycle, h]

end Sys2Proof.Machine
end

