-- ==== Sys2Proof/Laws/Divider.lean ====
section
/-! SUPPORT. The divider's quantities as natural numbers, and what a tick says of the state (spec/45_clock_divider.md). -/

namespace Sys2Proof.Machine

/-- Appending a byte multiplies by 256 and adds. -/
theorem append_byte_toNat (a : BitVec 16) (b : BitVec 8) : (a ++ b : BitVec 24).toNat = a.toNat * 256 + b.toNat := by
  have h := b.isLt
  have e : (a ++ b : BitVec 24).toNat = a.toNat <<< 8 ||| b.toNat := BitVec.toNat_append a b
  rw [e, Nat.shiftLeft_eq, Nat.mul_comm, ← Nat.two_pow_add_eq_or_of_lt h, Nat.mul_comm]

/-- Dq = INT × 256 + FRAC (R200). -/
theorem Regs.dq_toNat (r : Regs) : r.dq.toNat = r.divInt.toNat * 256 + r.divFrac.toNat :=
  append_byte_toNat r.divInt r.divFrac

/-- Dq in the accumulator's width is the same number. -/
theorem dq_setWidth_toNat (v : BitVec 24) : (v.setWidth 25).toNat = v.toNat := by
  simp
  omega

/-- The sum of R202 does not overflow while DIV_ACC is in its range (R31). -/
theorem divAcc_add_toNat (a : BitVec 25) (h : a.toNat < 2 ^ 24) : (a + 256#25).toNat = a.toNat + 256 := by
  rw [BitVec.toNat_add]
  simp
  omega

/-- The comparison of R202 is one of natural numbers. -/
theorem dq_le_sum_iff (r : Regs) (a : BitVec 25) (h : a.toNat < 2 ^ 24) :
    r.dq.setWidth 25 ≤ a + 256#25 ↔ r.divInt.toNat * 256 + r.divFrac.toNat ≤ a.toNat + 256 := by
  rw [BitVec.le_def, dq_setWidth_toNat, divAcc_add_toNat a h, Regs.dq_toNat]

/-- A cycle is a tick when `DividerStep` says so. -/
theorem tickDue_iff (s : State) : s.tickDue = true ↔ ∃ acc, dividerStep s = .tick acc := by
  unfold State.tickDue
  cases dividerStep s <;> simp

/-- In a tick the accumulator takes its next value and the block runs. -/
theorem dividerStep_of_tickDue (s : State) (h : s.tickDue = true) :
    dividerStep s = .tick s.nextDivAcc ∧ s.regs.en = true := by
  obtain ⟨a, ha⟩ := (tickDue_iff s).1 h
  refine ⟨by simp [State.nextDivAcc, ha], ?_⟩
  rcases dividerStep_cases s with ⟨_, e⟩ | ⟨he, _, _⟩ | ⟨he, _, _, _⟩ | ⟨he, _, _, _⟩
  · rw [e] at ha
    cases ha
  · exact he
  · exact he
  · exact he

end Sys2Proof.Machine
end

