-- ==== Sys2Proof/Laws/Memory.lean ====
section
/-! SUPPORT. The laws of the instruction memory: reading after writing, and that a write keeps the canonical form. -/

namespace Sys2Proof.Machine

@[simp] theorem Memory.read_nil (a : Nat) : Memory.read [] a = none := rfl

/-- Reading back the word just written gives it. -/
@[simp] theorem Memory.read_write_same (m : Memory) (a : Nat) (v : Word16) :
    Memory.read (Memory.write m a v) a = some v := by
  induction m with
  | nil => simp [Memory.write, Memory.read]
  | cons c m ih =>
    obtain ⟨b, w⟩ := c
    by_cases hlt : a < b
    · simp [Memory.write, Memory.read, hlt]
    · by_cases heq : a = b
      · simp [Memory.write, Memory.read, heq]
      · simp [Memory.write, Memory.read, hlt, heq, ih]

/-- A write leaves every other word as it was. -/
theorem Memory.read_write_other (m : Memory) {a b : Nat} (v : Word16) (h : b ≠ a) :
    Memory.read (Memory.write m a v) b = Memory.read m b := by
  induction m with
  | nil => simp [Memory.write, Memory.read, h]
  | cons c m ih =>
    obtain ⟨d, w⟩ := c
    by_cases hlt : a < d
    · simp [Memory.write, Memory.read, hlt, h]
    · by_cases heq : a = d
      · subst heq
        simp [Memory.write, Memory.read, h]
      · simp [Memory.write, Memory.read, hlt, heq, ih]

/-- A write at or above `lo` keeps the addresses rising from `lo` on. -/
theorem Memory.risesFrom_write (m : Memory) (lo a : Nat) (v : Word16) (hlo : lo ≤ a)
    (h : Memory.risesFrom lo m = true) : Memory.risesFrom lo (Memory.write m a v) = true := by
  induction m generalizing lo with
  | nil => simp [Memory.write, Memory.risesFrom, hlo]
  | cons c m ih =>
    obtain ⟨d, w⟩ := c
    simp only [Memory.risesFrom, Bool.and_eq_true, decide_eq_true_eq] at h
    by_cases hlt : a < d
    · simp only [Memory.write, hlt, if_true, Memory.risesFrom, Bool.and_eq_true, decide_eq_true_eq]
      exact ⟨hlo, hlt, h.2⟩
    · by_cases heq : a = d
      · subst heq
        simp [Memory.write, Memory.risesFrom, hlo, h.2]
      · simp only [Memory.write, hlt, heq, if_false, Memory.risesFrom, Bool.and_eq_true, decide_eq_true_eq]
        exact ⟨h.1, ih (d + 1) (by omega) h.2⟩

/-- The addresses listed after a write are those listed before and the one written. -/
theorem Memory.all_write (m : Memory) (a : Nat) (v : Word16) (p : Nat → Bool) (ha : p a = true)
    (h : (m.all fun c => p c.1) = true) : ((Memory.write m a v).all fun c => p c.1) = true := by
  induction m with
  | nil => simp [Memory.write, ha]
  | cons c m ih =>
    obtain ⟨d, w⟩ := c
    simp only [List.all_cons, Bool.and_eq_true] at h
    by_cases hlt : a < d
    · simp [Memory.write, hlt, ha, h.1, h.2]
    · by_cases heq : a = d
      · simp [Memory.write, heq, h.1, h.2]
      · simp [Memory.write, hlt, heq, h.1, ih h.2]

/-- A write at an address below 32 keeps the canonical form. -/
theorem Memory.write_wf (m : Memory) (a : Nat) (v : Word16) (ha : a < 32) (h : m.wf = true) :
    (Memory.write m a v).wf = true := by
  simp only [Memory.wf, Bool.and_eq_true] at h ⊢
  exact ⟨Memory.risesFrom_write m 0 a v (Nat.zero_le a) h.1,
    Memory.all_write m a v (fun n => decide (n < 32)) (by simpa using ha) h.2⟩

/-- `State.writeImem`, the one operation that writes IMEM, keeps the canonical form. -/
theorem State.writeImem_wf (k : ImemAddr) (v : Word16) (s : State) (h : s.imem.wf = true) :
    (s.writeImem k v).imem.wf = true :=
  Memory.write_wf s.imem k.toNat v k.isLt h

/-- Nothing is listed after reset. -/
theorem State.reset_imem_wf : State.reset.imem.wf = true := rfl

/-- An address below `lo` is unlisted in a memory whose addresses rise from `lo` on. -/
theorem Memory.read_of_lt (m : Memory) (lo a : Nat) (h : Memory.risesFrom lo m = true) (ha : a < lo) :
    Memory.read m a = none := by
  induction m generalizing lo with
  | nil => rfl
  | cons c m ih =>
    obtain ⟨d, w⟩ := c
    simp only [Memory.risesFrom, Bool.and_eq_true, decide_eq_true_eq] at h
    have hne : a ≠ d := by omega
    simp only [Memory.read, hne, if_false]
    exact ih (d + 1) h.2 (by omega)

/-- Memories in canonical form that read alike are equal data. -/
theorem Memory.ext_of_risesFrom (m n : Memory) (lo : Nat) (hm : Memory.risesFrom lo m = true)
    (hn : Memory.risesFrom lo n = true) (h : ∀ a, Memory.read m a = Memory.read n a) : m = n := by
  induction m generalizing lo n with
  | nil =>
    cases n with
    | nil => rfl
    | cons c n =>
      obtain ⟨d, w⟩ := c
      have := h d
      simp [Memory.read] at this
  | cons c m ih =>
    obtain ⟨d, w⟩ := c
    simp only [Memory.risesFrom, Bool.and_eq_true, decide_eq_true_eq] at hm
    cases n with
    | nil =>
      have := h d
      simp [Memory.read] at this
    | cons e n =>
      obtain ⟨f, u⟩ := e
      simp only [Memory.risesFrom, Bool.and_eq_true, decide_eq_true_eq] at hn
      have hdf : d = f := by
        rcases Nat.lt_trichotomy d f with hlt | heq | hgt
        · have := h d
          simp only [Memory.read, if_true, Nat.ne_of_lt hlt, if_false] at this
          rw [Memory.read_of_lt n (f + 1) d hn.2 (by omega)] at this
          cases this
        · exact heq
        · have := h f
          simp only [Memory.read, if_true, Nat.ne_of_lt hgt, if_false] at this
          rw [Memory.read_of_lt m (d + 1) f hm.2 (by omega)] at this
          cases this
      subst hdf
      have hw : w = u := by simpa [Memory.read] using h d
      subst hw
      congr 1
      refine ih n (d + 1) hm.2 hn.2 fun a => ?_
      by_cases ha : a < d + 1
      · rw [Memory.read_of_lt m _ a hm.2 ha, Memory.read_of_lt n _ a hn.2 ha]
      · have := h a
        have hne : a ≠ d := by omega
        simpa [Memory.read, hne] using this

end Sys2Proof.Machine
end

