-- ==== Sys2Proof/Laws/RegisterInterface.lean ====
section
/-! SUPPORT. The register map (spec/20_memory.md R61, R66) by cases, and the fields of FSTAT. -/

namespace Sys2Proof.Machine

/-- R61: 32 bits wide at a multiple of 4. -/
theorem goodAccess_iff (off : Offset) (width : Nat) : goodAccess off width = true ↔ width = 32 ∧ off.toNat % 4 = 0 := by
  simp [goodAccess, BitVec.toNat_eq]

/-- PROGCTRL stands at one offset. -/
theorem regAt_eq_progctrl (off : Offset) : regAt off = .progctrl ↔ off = 0x008#12 := by
  unfold regAt
  constructor
  · intro h
    repeat' split at h
    all_goals first | assumption | cases h
  · rintro rfl
    decide

/-- TXF stands at one offset. -/
theorem regAt_eq_txf (off : Offset) : regAt off = .txf ↔ off = 0x010#12 := by
  unfold regAt
  constructor
  · intro h
    repeat' split at h
    all_goals first | assumption | cases h
  · rintro rfl
    decide

/-- IMEM_k stands at 0x080 + 4k. -/
theorem regAt_imem (k : ImemAddr) :
    regAt (BitVec.ofNat 12 (0x080 + 4 * k.toNat)) = .imem k ∧
      goodAccess (BitVec.ofNat 12 (0x080 + 4 * k.toNat)) 32 = true := by
  revert k
  decide

/-- The two unmapped ranges of R66. -/
theorem regAt_eq_unmapped (off : Offset) (aligned : off.toNat % 4 = 0)
    (h : (0x014 ≤ off.toNat ∧ off.toNat ≤ 0x07C) ∨ (0x100 ≤ off.toNat ∧ off.toNat ≤ 0xFFC)) :
    regAt off = .unmapped := by
  have hne : ∀ k : Nat, k < 0x14 → off ≠ BitVec.ofNat 12 k := by
    intro k hk he
    rw [he] at h
    simp at h
    omega
  have hu : off.extractLsb' 7 5 ≠ 1#5 := by
    intro he
    have ht := congrArg BitVec.toNat he
    have hx : (off.extractLsb' 7 5).toNat = off.toNat / 128 % 32 := by
      simp [BitVec.extractLsb'_toNat, Nat.shiftRight_eq_div_pow]
    rw [hx] at ht
    have := off.isLt
    simp at ht
    omega
  unfold regAt
  rw [if_neg (hne 0 (by omega)), if_neg (hne 4 (by omega)), if_neg (hne 8 (by omega)), if_neg (hne 12 (by omega)),
    if_neg (hne 16 (by omega)), if_neg hu]

/-- FSTAT[8] is FULL. -/
theorem fstat_bit8 (s : State) : s.fstat.getLsbD 8 = s.full := by
  simp only [State.fstat, BitVec.getLsbD_append]
  simp

/-- FSTAT[9] is EMPTY. -/
theorem fstat_bit9 (s : State) : s.fstat.getLsbD 9 = s.empty := by
  simp only [State.fstat, BitVec.getLsbD_append]
  simp

end Sys2Proof.Machine
end

