-- ==== Sys2Proof/Laws/Cycle.lean ====
section
/-! SUPPORT. One system cycle (spec/10_state.md R45) taken apart once: what the engine's part can answer (`Turn`), what it
leaves alone (`TurnFrame`), and what the port's part leaves alone (`PortFrame`). -/

namespace Sys2Proof.Machine

/-! Taking this cycle's inputs off the list changes nothing the cycle's parts look at. -/

@[simp] theorem dividerStep_begin (s : State) : dividerStep s.begin = dividerStep s := rfl
@[simp] theorem State.begin_tickDue (s : State) : s.begin.tickDue = s.tickDue := rfl
@[simp] theorem State.begin_nextDivAcc (s : State) : s.begin.nextDivAcc = s.nextDivAcc := rfl
@[simp] theorem State.begin_fetch (s : State) : s.begin.fetch = s.fetch := rfl
@[simp] theorem State.begin_nextPc (s : State) : s.begin.nextPc = s.nextPc := rfl
@[simp] theorem State.begin_level (s : State) : s.begin.level = s.level := rfl
@[simp] theorem State.begin_fstat (s : State) : s.begin.fstat = s.fstat := rfl
@[simp] theorem State.setDivAcc_fetch (a : BitVec 25) (s : State) : (s.setDivAcc a).fetch = s.fetch := rfl
@[simp] theorem State.setDivAcc_nextPc (a : BitVec 25) (s : State) : (s.setDivAcc a).nextPc = s.nextPc := rfl
@[simp] theorem accessOf_begin (op : BusOp) (s : State) : accessOf op s.begin = accessOf op s := by cases op <;> rfl
@[simp] theorem cpuAfter_begin (op : BusOp) (s : State) : cpuAfter op s.begin = cpuAfter op s := by cases op <;> rfl
@[simp] theorem readReg_begin (r : Reg) (s : State) : readReg r s.begin = readReg r s := by cases r <;> rfl

/-- What the divider's and the engine's part of a cycle can make of `s`. -/
inductive Turn (s : State) : State → Prop where
  | idle (noTick : s.tickDue = false) (legal : dividerStep s ≠ .badDivisor) :
      Turn s (s.begin.setDivAcc s.nextDivAcc)
  | badDivisor (noTick : s.tickDue = false) (running : s.regs.en = true) (zero : s.regs.divInt = 0#16) :
      Turn s ((s.begin.setDivAcc s.nextDivAcc).refuse .badDivisor)
  | unwritten (tick : s.tickDue = true) (fetched : s.fetch = .unwritten) :
      Turn s ((s.begin.setDivAcc s.nextDivAcc).raise (.imemUnwritten s.eng.pc))
  | illegal (w : Word16) (tick : s.tickDue = true) (fetched : s.fetch = .illegal w) :
      Turn s ((s.begin.setDivAcc s.nextDivAcc).refuse (.illegalEncoding s.eng.pc w))
  | issued (i : Instr) (t : State) (tick : s.tickDue = true) (fetched : s.fetch = .instr i)
      (ran : exec i (s.begin.setDivAcc s.nextDivAcc) = .next t) : Turn s t

/-- No instruction ends a run. -/
theorem exec_answers_next (i : Instr) (s : State) : ∃ t, exec i s = .next t := by
  cases i with
  | outPins1 ss =>
    rcases execOutPins1_cases ss s with ⟨_, e⟩ | ⟨_, _, _, _, e⟩ | ⟨_, _, e⟩ <;> exact ⟨_, e⟩
  | jmpXDec ss addr => rcases execJmpXDec_cases ss addr s with ⟨_, e⟩ | ⟨_, e⟩ <;> exact ⟨_, e⟩
  | setX ss imm => exact ⟨_, rfl⟩

/-- The engine's part of a cycle answers a next state, and it is one of those of `Turn`. -/
theorem dividerTurn_begin_cases (s : State) : ∃ u, dividerTurn s.begin = .next u ∧ Turn s u := by
  rcases dividerTurn_cases s.begin with ⟨hd, e⟩ | ⟨hd, e⟩ | ⟨a, hd, e⟩ | ⟨a, hd, e⟩ <;>
    simp only [dividerStep_begin] at hd
  · have ha : s.nextDivAcc = s.divAcc := by simp [State.nextDivAcc, hd]
    have ht : Turn s (s.begin.setDivAcc s.nextDivAcc) := .idle (by simp [State.tickDue, hd]) (by simp [hd])
    rw [ha] at ht
    exact ⟨_, e, ht⟩
  · have ha : s.nextDivAcc = s.divAcc := by simp [State.nextDivAcc, hd]
    have hc : s.regs.en = true ∧ s.regs.divInt = 0#16 := by
      rcases dividerStep_cases s with ⟨_, e'⟩ | ⟨h1, h2, _⟩ | ⟨_, _, _, e'⟩ | ⟨_, _, _, e'⟩
      · rw [e'] at hd
        cases hd
      · exact ⟨h1, h2⟩
      · rw [e'] at hd
        cases hd
      · rw [e'] at hd
        cases hd
    have ht : Turn s ((s.begin.setDivAcc s.nextDivAcc).refuse .badDivisor) :=
      .badDivisor (by simp [State.tickDue, hd]) hc.1 hc.2
    rw [ha] at ht
    exact ⟨_, e, ht⟩
  · have ha : s.nextDivAcc = a := by simp [State.nextDivAcc, hd]
    have ht : Turn s (s.begin.setDivAcc s.nextDivAcc) := .idle (by simp [State.tickDue, hd]) (by simp [hd])
    rw [ha] at ht
    exact ⟨_, e, ht⟩
  · have ht : s.tickDue = true := (tickDue_iff s).2 ⟨a, hd⟩
    have ha : s.nextDivAcc = a := by simp [State.nextDivAcc, hd]
    subst ha
    rcases engineCycle_cases (s.begin.setDivAcc s.nextDivAcc) with ⟨hf, e'⟩ | ⟨w, hf, e'⟩ | ⟨i, hf, e'⟩ <;>
      simp only [State.setDivAcc_fetch, State.begin_fetch] at hf <;> rw [e, e']
    · exact ⟨_, rfl, .unwritten ht hf⟩
    · exact ⟨_, rfl, .illegal w ht hf⟩
    · obtain ⟨t, ran⟩ := exec_answers_next i (s.begin.setDivAcc s.nextDivAcc)
      exact ⟨t, ran, .issued i t ht hf ran⟩

/-- A step without `rst` is a turn of the engine's part and then the port's part. -/
theorem step_split (s : State) (noRst : s.nextInput.rst = false) :
    ∃ u, dividerTurn s.begin = .next u ∧ Turn s u ∧ step s = .next (portStep s.nextInput.op s.begin u) := by
  obtain ⟨u, hu, ht⟩ := dividerTurn_begin_cases s
  refine ⟨u, hu, ht, ?_⟩
  rcases step_cases s with ⟨h, _⟩ | ⟨_, e⟩
  · simp [noRst] at h
  · rw [e, hu]
    rfl

/-- With EN = 0 the engine's part changes nothing. -/
theorem Turn.of_paused {s u : State} (h : Turn s u) (paused : s.regs.en = false) :
    u = s.begin.setDivAcc s.divAcc ∧ s.tickDue = false := by
  have hd : dividerStep s = .paused := by simp [dividerStep, paused]
  have ht : s.tickDue = false := by simp [State.tickDue, hd]
  cases h with
  | idle _ _ => exact ⟨by simp [State.nextDivAcc, hd], ht⟩
  | badDivisor _ running _ => simp [paused] at running
  | unwritten tick _ => simp [ht] at tick
  | illegal _ tick _ => simp [ht] at tick
  | issued _ _ tick _ _ => simp [ht] at tick

/-- Nothing is popped in a cycle that is no tick. -/
theorem poppedWord_of_noTick {s : State} (h : s.tickDue = false) : poppedWord s = none := by simp [poppedWord, h]

/-- What the engine's part of a cycle leaves alone, and what it pops. -/
structure TurnFrame (s u : State) : Prop where
  params     : u.params = s.params
  imem       : u.imem = s.imem
  regs       : u.regs = s.regs
  cpu        : u.cpu = s.cpu
  inputs     : u.inputs = s.inputs.tail
  rdata      : u.rdata = none
  divAcc     : u.divAcc = s.nextDivAcc
  fifo       : (poppedWord s).toList ++ u.fifo = s.fifo
  faults     : ∀ f ∈ s.marks.faults, f ∈ u.marks.faults
  refusals   : ∀ r ∈ s.marks.refusals, r ∈ u.marks.refusals
  underrun   : s.marks.underrunSeen = true → u.marks.underrunSeen = true
  overflow   : ∀ w, Fault.overflowWrite w ∈ u.marks.faults → Fault.overflowWrite w ∈ s.marks.faults
  faultsSet  : s.marks.faults.Nodup → u.marks.faults.Nodup
  refusalSet : s.marks.refusals.Nodup → u.marks.refusals.Nodup

theorem Turn.frame {s u : State} (h : Turn s u) : TurnFrame s u := by
  cases h with
  | idle noTick _ => constructor <;> simp [poppedWord_of_noTick noTick]
  | badDivisor noTick _ _ =>
    constructor <;> simp [poppedWord_of_noTick noTick] <;> first | tauto | exact nodup_insertNew _ _
  | unwritten _ hf => constructor <;> simp [poppedWord, hf] <;> first | tauto | exact nodup_insertNew _ _
  | illegal w _ hf => constructor <;> simp [poppedWord, hf] <;> first | tauto | exact nodup_insertNew _ _
  | issued i t tick hf ran =>
    cases i with
    | outPins1 ss =>
      simp only [exec] at ran
      rcases execOutPins1_cases ss (s.begin.setDivAcc s.nextDivAcc) with ⟨c, e⟩ | ⟨c, v, r, f, e⟩ | ⟨c, f, e⟩ <;>
        rw [e] at ran <;> cases ran <;> simp only [State.setDivAcc_eng, State.begin_eng] at c
      · constructor <;> simp [poppedWord, hf, c]
      · simp only [State.setDivAcc_fifo, State.begin_fifo] at f
        constructor <;> simp [poppedWord, hf, c, tick, f]
      · simp only [State.setDivAcc_fifo, State.begin_fifo] at f
        constructor <;> simp [poppedWord, hf, c, f]
    | jmpXDec ss addr =>
      simp only [exec] at ran
      rcases execJmpXDec_cases ss addr (s.begin.setDivAcc s.nextDivAcc) with ⟨_, e⟩ | ⟨_, e⟩ <;>
        rw [e] at ran <;> cases ran
      · constructor <;> simp [poppedWord, hf]
      · constructor <;> simp [poppedWord, hf] <;> first | tauto | exact nodup_insertNew _ _
    | setX ss imm =>
      simp only [exec, execSetX] at ran
      cases ran
      constructor <;> simp [poppedWord, hf]

/-- What the port's part of a cycle leaves alone: `s` is the pre-state of the cycle, `u` the state after the engine's part,
`t` the post-state. -/
structure PortFrame (op : BusOp) (s u t : State) : Prop where
  params    : t.params = u.params
  divAcc    : t.divAcc = u.divAcc
  inputs    : t.inputs = u.inputs
  cpu       : t.cpu = cpuAfter op s
  eng       : { t.eng with pc := u.eng.pc } = u.eng
  engRun    : s.regs.en = true → t.eng = u.eng
  engOther  : (∀ v, accessOf op s ≠ .write 0x008#12 32 v) → t.eng = u.eng
  config    : s.regs.en = true → t.imem = u.imem ∧ { t.regs with en := u.regs.en } = u.regs
  faults    : ∀ f ∈ u.marks.faults, f ∈ t.marks.faults
  refusals  : t.marks.refusals = u.marks.refusals
  underrun  : t.marks.underrunSeen = u.marks.underrunSeen
  faultsSet : u.marks.faults.Nodup → t.marks.faults.Nodup
  imemWf    : u.imem.wf = true → t.imem.wf = true

theorem portStep_frame (op : BusOp) (s u : State) : PortFrame op s u (portStep op s.begin u) := by
  simp only [portStep, accessOf_begin, cpuAfter_begin]
  generalize hp : u.setCpu (cpuAfter op s) = post
  rcases busStep_cases (accessOf op s) s.begin post with
    ⟨ha, e⟩ | ⟨off, width, ha, g, e⟩ | ⟨off, width, v, ha, g, e⟩ | ⟨off, width, ha, g, e⟩ <;> rw [e] <;> subst hp
  · constructor <;> simp
  · constructor <;> simp
  · cases hr : regAt off with
    | ctrl => constructor <;> simp [writeReg]
    | clkdiv =>
      simp only [writeReg]
      rcases configWrite_cases .clkdiv ((u.setCpu (cpuAfter op s)).setClkdiv v) s.begin (u.setCpu (cpuAfter op s)) with
        ⟨c, e⟩ | ⟨c, e⟩ <;> rw [e] <;> simp at c
      · constructor <;> simp [c]
      · constructor <;> simp <;> first | tauto | exact nodup_insertNew _ _
    | progctrl =>
      rw [regAt_eq_progctrl] at hr
      simp only [writeReg]
      rcases configWrite_cases .progctrl ((u.setCpu (cpuAfter op s)).setProgctrl v) s.begin
        (u.setCpu (cpuAfter op s)) with ⟨c, e⟩ | ⟨c, e⟩ <;> rw [e] <;> simp at c
      · have hw := (goodAccess_iff _ _).1 g
        constructor <;> simp [c]
        rw [ha, hw.1, hr]
        intro h
        exact absurd rfl (h v)
      · constructor <;> simp <;> first | tauto | exact nodup_insertNew _ _
    | fstat => constructor <;> simp [writeReg]
    | txf =>
      simp only [writeReg]
      rcases pushTxf_cases v s.begin (u.setCpu (cpuAfter op s)) with ⟨_, e⟩ | ⟨_, e⟩ | ⟨_, e⟩ <;> rw [e]
      · constructor <;> simp
      · constructor <;> simp <;> first | tauto | exact nodup_insertNew _ _
      · constructor <;> simp
    | imem k =>
      simp only [writeReg]
      rcases configWrite_cases (.imem k) ((u.setCpu (cpuAfter op s)).writeImem k (v.extractLsb' 0 16)) s.begin
        (u.setCpu (cpuAfter op s)) with ⟨c, e⟩ | ⟨c, e⟩ <;> rw [e] <;> simp at c
      · constructor <;> simp [c]
        exact fun h => Memory.write_wf _ _ _ k.isLt h
      · constructor <;> simp <;> first | tauto | exact nodup_insertNew _ _
    | unmapped => constructor <;> simp [writeReg]
  · constructor <;> simp <;> first | tauto | exact nodup_insertNew _ _

/-- The port's part appends the word accepted in the cycle to what the engine's part left in the FIFO. -/
theorem portStep_fifo (s u : State) :
    (portStep s.nextInput.op s.begin u).fifo = u.fifo ++ (acceptedWord s).toList := by
  simp only [portStep, accessOf_begin, cpuAfter_begin, acceptedWord, txfWrite]
  generalize hp : u.setCpu (cpuAfter s.nextInput.op s) = post
  have hf : post.fifo = u.fifo := by rw [← hp]; rfl
  rcases busStep_cases (accessOf s.nextInput.op s) s.begin post with
    ⟨ha, e⟩ | ⟨off, width, ha, g, e⟩ | ⟨off, width, v, ha, g, e⟩ | ⟨off, width, ha, g, e⟩ <;> rw [e]
  · simp [ha, hf]
  · simp [ha, hf]
  · cases hr : regAt off with
    | ctrl => simp [writeReg, ha, hr, hf]
    | clkdiv => simp only [writeReg, configWrite]; split <;> simp [ha, hr, hf]
    | progctrl => simp only [writeReg, configWrite]; split <;> simp [ha, hr, hf]
    | fstat => simp [writeReg, ha, hr, hf]
    | txf =>
      simp only [writeReg]
      rcases pushTxf_cases v s.begin post with ⟨c, e⟩ | ⟨c, e⟩ | ⟨c, e⟩ <;> rw [e] <;> simp at c
      · simp [ha, g, hr, c, hf]
      · simp [c, hf]
      · simp [Nat.not_lt.2 (Nat.le_of_lt c), hf]
    | imem k => simp only [writeReg, configWrite]; split <;> simp [ha, hr, hf]
    | unmapped => simp [writeReg, ha, hr, hf]
  · rcases ha with ha | ⟨v, ha⟩ <;> simp [ha, g, hf]

/-- A good read sets the value returned, and nothing else but the host agents' own state. -/
theorem portStep_read (s u : State) (off : Offset) (g : goodAccess off 32 = true)
    (h : accessOf s.nextInput.op s = .read off 32) :
    portStep s.nextInput.op s.begin u =
      (u.setCpu (cpuAfter s.nextInput.op s)).setRdata (readReg (regAt off) s) := by
  simp [portStep, h, busStep, g]

/-- A good write writes its register. -/
theorem portStep_write (s u : State) (off : Offset) (v : Word32) (g : goodAccess off 32 = true)
    (h : accessOf s.nextInput.op s = .write off 32 v) :
    portStep s.nextInput.op s.begin u = writeReg (regAt off) v s.begin (u.setCpu (cpuAfter s.nextInput.op s)) := by
  simp [portStep, h, busStep, g]

/-- The cycle with the port quiet is the engine's part of the same cycle alone. -/
theorem step_quiet (s : State) (op : BusOp) (rest : List CycleInput)
    (h : s.inputs = { rst := false, op := op } :: rest) :
    ∃ u, Turn s u ∧ u.rdata = none ∧ u.cpu = s.cpu ∧
      step { s with inputs := CycleInput.quiet :: rest } = .next u ∧ step s = .next (portStep op s.begin u) := by
  have hr : s.nextInput.rst = false := by simp [State.nextInput, h]
  have hop : s.nextInput.op = op := by simp [State.nextInput, h]
  obtain ⟨u, hu, ht, e⟩ := step_split s hr
  have hb : ({ s with inputs := CycleInput.quiet :: rest } : State).begin = s.begin := by simp [State.begin, h]
  have hc := ht.frame.cpu
  refine ⟨u, ht, ht.frame.rdata, hc, ?_, by rw [e, hop]⟩
  have hq : step { s with inputs := CycleInput.quiet :: rest } = .next (u.setCpu s.cpu) := by
    simp only [step, systemCycle, hb, hu]
    rfl
  rw [hq, ← hc]
  rfl

end Sys2Proof.Machine
end

