-- ==== Sys2Proof/Laws/Decode.lean ====
section
/-! SUPPORT. The five fields of an instruction word (spec/30_encoding.md R91) cover it, and a mask test bit by bit. -/

namespace Sys2Proof

/-- A word is its five fields put together again: no bit of it lies outside them. -/
theorem assembleFields_fields (w : Word16) :
    assembleFields (fieldOpc w) (fieldSs w) (fieldDly w) (fieldSel w) (fieldArg w) = w := by
  unfold assembleFields fieldOpc fieldSs fieldDly fieldSel fieldArg
  apply BitVec.eq_of_getLsbD_eq
  intro i hi
  simp only [BitVec.getLsbD_append, BitVec.getLsbD_extractLsb']
  interval_cases i <;> simp

/-- A mask-and-match test (R96) holds when every bit of the word under the mask is that of the pattern. -/
theorem and_eq_iff_bits (w mask pattern : Word16) :
    w &&& mask = pattern ↔ ∀ i, i < 16 → (w.getLsbD i && mask.getLsbD i) = pattern.getLsbD i := by
  constructor
  · rintro rfl
    simp
  · intro h
    apply BitVec.eq_of_getLsbD_eq
    intro i hi
    simpa using h i hi

end Sys2Proof
end

