-- ==== Sys2Proof/Tests/Slice0.lean ====
section
/-! SUPPORT. The model's own tests, each about one step or one function on a small state, with expected results from the
spec's vectors (spec/95_test_vectors.md, named V<n> or S<n>) or worked out by hand from its rules; and a witness for the
hypotheses of every obligation that has some. -/

namespace Sys2Proof.Tests

open Sys2Proof.Machine

/-- The state an outcome holds. -/
def after : Host.Outcome State Fault Refusal → State
  | .next t => t
  | .fault _ => State.reset
  | .refused _ => State.reset

/-- The state after one cycle. -/
def cycle (s : State) : State := after (step s)

theorem step_cycle (s : State) (noRst : s.nextInput.rst = false) : step s = .next (cycle s) := by
  obtain ⟨_, _, _, e⟩ := step_split s noRst
  simp [cycle, after, e]

/-- From reset, a cycle with the given access and no `rst`. -/
def offered (op : BusOp) : State := { State.reset with inputs := [{ rst := false, op := op }] }

/-- A running block with D = 1.0, so that every cycle is a tick, the wrap addresses 0 and 7, and one word at PC. -/
def running (pc : ImemAddr) (w : Word16) (op : BusOp) : State := { offered op with
  eng  := { Engine.reset with pc := pc }
  imem := [(pc.toNat, w)]
  regs := { Regs.reset with en := true, wrapTop := 7#5 } }

/-- The first stereo word of S6, pack(100, -100). -/
def w1 : Word32 := 0x0064FF9C#32

/-- The second, pack(200, -200). -/
def w2 : Word32 := 0x00C8FF38#32

/-! ## Decoding: words written out field by field, OPC, SS, DLY, SEL, ARG (R91, R94, R95, R97) -/

theorem test_decode_out : decode (0b011#3 ++ 0b10#2 ++ 0b000#3 ++ 0b000#3 ++ 0b00001#5) = some (.outPins1 0b10#2) := by decide

theorem test_decode_out_other_counts :
    decode (0b011#3 ++ 0b10#2 ++ 0b000#3 ++ 0b000#3 ++ 0b00000#5) = none ∧
      decode (0b011#3 ++ 0b10#2 ++ 0b000#3 ++ 0b000#3 ++ 0b10001#5) = none := by decide

theorem test_decode_jmp : decode (0b000#3 ++ 0b01#2 ++ 0b000#3 ++ 0b010#3 ++ 0b10100#5) = some (.jmpXDec 0b01#2 20#5) := by decide

theorem test_decode_jmp_other_conditions :
    decode (0b000#3 ++ 0b01#2 ++ 0b000#3 ++ 0b000#3 ++ 0b10100#5) = none ∧
      decode (0b000#3 ++ 0b01#2 ++ 0b000#3 ++ 0b011#3 ++ 0b10100#5) = none := by decide

theorem test_decode_set : decode (0b111#3 ++ 0b11#2 ++ 0b000#3 ++ 0b001#3 ++ 0b01110#5) = some (.setX 0b11#2 14#5) := by decide

theorem test_decode_set_other_destinations :
    decode (0b111#3 ++ 0b11#2 ++ 0b000#3 ++ 0b000#3 ++ 0b01110#5) = none ∧
      decode (0b111#3 ++ 0b11#2 ++ 0b000#3 ++ 0b010#3 ++ 0b01110#5) = none := by decide

theorem test_decode_delay_is_illegal :
    decode (0b011#3 ++ 0b10#2 ++ 0b001#3 ++ 0b000#3 ++ 0b00001#5) = none ∧
      decode (0b000#3 ++ 0b00#2 ++ 0b111#3 ++ 0b010#3 ++ 0b00000#5) = none := by decide

theorem test_encode_words :
    encode (.outPins1 0b10#2) = 0x7001#16 ∧ encode (.jmpXDec 0b01#2 4#5) = 0x0844#16 ∧
      encode (.setX 0b11#2 14#5) = 0xF82E#16 := by decide

theorem test_decodeTableWord :
    decodeTableWord 16 0x6001 = some (.outPins1 0b00#2) ∧ decodeTableWord 16 0xE020 = some (.setX 0b00#2 0#5) := by decide

/-! ## WellFormed: each check refuses an ill-formed term (a term of `Instr` has no ill-formed field) -/

theorem test_admitted_refuses : admitted 0x6002#16 = false ∧ admitted 0x0740#16 = false ∧ admitted 0xE040#16 = false := by decide

theorem test_sampleInRange_refuses : sampleInRange 32768 = false ∧ sampleInRange (-32769) = false ∧
    sampleInRange 32767 = true ∧ sampleInRange (-32768) = true := by decide

theorem test_waveOk_refuses : { Params.default with wave := [] }.waveOk = false ∧
    { Params.default with wave := [1, 2, 3] }.waveOk = false ∧
    { Params.default with wave := [1, 32768] }.waveOk = false ∧ Params.default.waveOk = true := by decide

theorem test_depthOk_refuses : { Params.default with fifoDepth := 0 }.depthOk = false ∧
    { Params.default with fifoDepth := 256 }.depthOk = false ∧ { Params.default with fifoDepth := 255 }.depthOk = true := by decide

theorem test_paramsWf_refuses : { Params.default with fifoDepth := 0 }.wf = false ∧
    { Params.default with wave := [1] }.wf = false ∧ Params.default.wf = true := by decide

theorem test_ratesOk_refuses : { Params.default with sysclkHz := 0 }.ratesOk = false ∧
    { Params.default with sampleRateHz := 0 }.ratesOk = false ∧ { Params.default with sampleRateHz := 0 }.wf = false ∧
    { Params.default with sysclkHz := 1, sampleRateHz := 1 }.ratesOk = true := by decide

theorem test_adjacent_refuses : ({ data := 15, bitClock := 13, wordSelect := 12 } : PinBinding).adjacent = false ∧
    Params.default.pins.adjacent = true := by decide

theorem test_fits_refuses : { Image.i2s with words := List.replicate 33 0x6001#16 }.fits = false ∧
    { Image.i2s with words := List.replicate 32 0x6001#16 }.fits = true := by decide

theorem test_asmOp_refuses : (AsmOp.out 2).wf = false ∧ (AsmOp.out 0).wf = false ∧
    (AsmOp.jmp (.address 32)).wf = false ∧ (AsmOp.set 32).wf = false ∧ (AsmOp.set 31).wf = true := by decide

theorem test_asmInstr_refuses : ({ op := .out 1, side := 4, delay := 0 } : AsmInstr).wf = false ∧
    ({ op := .out 1, side := 0, delay := 1 } : AsmInstr).wf = false ∧
    ({ op := .set 32, side := 0, delay := 0 } : AsmInstr).wf = false := by decide

theorem test_memoryWf_refuses : Memory.wf [(3, 0#16), (3, 1#16)] = false ∧ Memory.wf [(4, 0#16), (3, 1#16)] = false ∧
    Memory.wf [(32, 0#16)] = false ∧ Memory.wf [(0, 0#16), (31, 1#16)] = true := by decide

/-! ## Instructions -/

/-- V3.1. -/
theorem test_out_shift :
    let t := after (exec (.outPins1 0b10#2) { running 0#5 0x7001#16 .idle with
      eng := { Engine.reset with osr := 0x80000001#32, osrCount := 5#6 }, fifo := [w1] })
    t.eng = { Engine.reset with pc := 1#5, osr := 0x00000002#32, osrCount := 6#6, sdOut := true, sideOut := 0b10#2 } ∧
      t.fifo = [w1] := by decide

/-- V3.4. -/
theorem test_out_autopull :
    let t := after (exec (.outPins1 0b10#2) { running 0#5 0x7001#16 .idle with fifo := [0x80000000#32, w2] })
    t.eng = { Engine.reset with pc := 1#5, osr := 0#32, osrCount := 1#6, sdOut := true, sideOut := 0b10#2 } ∧
      t.fifo = [w2] := by decide

/-- V4.3 and V4.6: at the wrap top the jump not taken goes to WRAP_BOTTOM. -/
theorem test_jmp_falls_through :
    let x0 := fun pc => { running pc 0x1840#16 .idle with eng := { Engine.reset with pc := pc, xWritten := true } }
    (after (exec (.jmpXDec 0b11#2 0#5) (x0 1#5))).eng =
        { Engine.reset with pc := 2#5, x := 0xFFFFFFFF#32, xWritten := true, sideOut := 0b11#2 } ∧
      (after (exec (.jmpXDec 0b11#2 3#5) (x0 7#5))).eng.pc = 0#5 := by decide

/-- V4.5 and V4.7: taken on an unsigned nonzero X, to itself too. -/
theorem test_jmp_taken :
    let x := fun v => { running 5#5 0x0045#16 .idle with eng := { Engine.reset with pc := 5#5, x := v, xWritten := true } }
    (after (exec (.jmpXDec 0b00#2 5#5) (x 3#32))).eng = { Engine.reset with pc := 5#5, x := 2#32, xWritten := true } ∧
      (after (exec (.jmpXDec 0b00#2 0#5) (x 0x80000000#32))).eng.x = 0x7FFFFFFF#32 := by decide

/-- V5.4: zero-extended. -/
theorem test_set_zero_extends :
    (after (exec (.setX 0b00#2 31#5) (running 0#5 0xE03F#16 .idle))).eng =
      { Engine.reset with pc := 1#5, x := 31#32, xWritten := true } := by decide

/-- V5.1 and V5.6: PC wraps at WRAP_TOP and past 31. -/
theorem test_set_pc_wraps :
    (after (exec (.setX 0b11#2 14#5) (running 7#5 0xF82E#16 .idle))).eng.pc = 0#5 ∧
      (after (exec (.setX 0b00#2 2#5) (running 31#5 0xE022#16 .idle))).eng.pc = 0#5 := by decide

/-! ## The cycle -/

/-- V3.6: a word pushed while the OUT stalls is not seen by it. -/
theorem test_stall_without_bypass :
    let t := cycle (running 0#5 0x7001#16 (.write 0x010#12 32 w1))
    t.eng = { Engine.reset with sideOut := 0b10#2 } ∧ t.fifo = [w1] ∧ t.marks.underrunSeen = true ∧ t.clean = true := by decide

/-- V6.6: with the FIFO full, a push is dropped even though the engine pops. -/
theorem test_push_judged_on_the_pre_state :
    let t := cycle { running 0#5 0x7001#16 (.write 0x010#12 32 7#32) with fifo := [w1, w2] }
    t.fifo = [w2] ∧ t.marks.faults = [.overflowWrite 7#32] := by decide

/-- V10.1 to V10.3: what a tick records with nothing at PC, with X unwritten, and at an illegal word. -/
theorem test_marks_of_a_tick :
    (cycle { running 0#5 0#16 .idle with imem := [] }).marks = { Marks.reset with faults := [.imemUnwritten 0#5] } ∧
      (cycle (running 0#5 0x1840#16 .idle)).marks = { Marks.reset with faults := [.xUnwritten 0#5] } ∧
      (cycle (running 0#5 0xA042#16 .idle)).marks = { Marks.reset with refusals := [.illegalEncoding 0#5 0xA042#16] } ∧
      (cycle (running 0#5 0x1840#16 .idle)).eng = Engine.reset := by decide

/-- V8 at D = 4.25: the accumulator after a cycle without and with a tick, and V8.2. -/
theorem test_divider :
    let s := fun acc => { running 0#5 0xE020#16 .idle with
      divAcc := acc, regs := { Regs.reset with en := true, divInt := 4#16, divFrac := 64#8 } }
    (cycle (s 768#25)).divAcc = 1024#25 ∧ (cycle (s 1024#25)).divAcc = 192#25 ∧
      (cycle { s 0#25 with regs := { Regs.reset with en := true, divInt := 0#16, divFrac := 128#8 } }).marks.refusals =
        [.badDivisor] := by decide

/-- V10.4: `rst` overrides the access of its cycle. -/
theorem test_rst :
    let t := cycle { running 0#5 0x7001#16 .idle with inputs := [{ rst := true, op := .write 0x010#12 32 w1 }], fifo := [w2] }
    t = State.reset := by decide

/-! ## The register interface -/

/-- V7.1 and V7.2. -/
theorem test_reset_reads :
    [0x000#12, 0x004#12, 0x008#12, 0x00C#12, 0x010#12, 0x080#12, 0x014#12, 0x07C#12, 0x100#12, 0xFFC#12].map
        (fun off => (cycle (offered (.read off 32))).rdata) =
      [some 0#32, some 0x00010000#32, some 0x001F0000#32, some 0x00000200#32, some 0#32, some 0#32, some 0#32, some 0#32,
        some 0#32, some 0#32] := by decide

/-- V7.3, V7.4 and V7.14: the fields a write takes. -/
theorem test_config_writes :
    (cycle (offered (.write 0x004#12 32 0x000440FF#32))).regs = { Regs.reset with divInt := 4#16, divFrac := 64#8 } ∧
      readReg .progctrl (cycle (offered (.write 0x008#12 32 0xFFFFFFFF#32))) = 0x001F1F1F#32 ∧
      (cycle (offered (.write 0x008#12 32 0xFFFFFFFF#32))).eng.pc = 31#5 ∧
      (cycle (offered (.write 0x080#12 32 0xDEAD7001#32))).imem = [(0, 0x7001#16)] := by decide

/-- V7.8 to V7.10: while running they are faulted, and PC keeps the engine's update. -/
theorem test_config_writes_while_running :
    (cycle (running 0#5 0xE020#16 (.write 0x004#12 32 0x00020000#32))).marks.faults = [.configWhileRunning .clkdiv] ∧
      (cycle (running 0#5 0xE020#16 (.write 0x088#12 32 0x7001#32))).imem = [(0, 0xE020#16)] ∧
      (cycle (running 0#5 0xE020#16 (.write 0x008#12 32 0x00070007#32))).eng.pc = 1#5 := by decide

/-- V7.12 and V7.13. -/
theorem test_bad_accesses :
    (cycle (offered (.write 0x010#12 16 w1))).marks.faults = [.badAccess 0x010#12 16] ∧
      (cycle (offered (.write 0x010#12 16 w1))).fifo = [] ∧ (cycle (offered (.read 0x002#12 32))).rdata = none := by decide

/-- V6: FSTAT at its levels. -/
theorem test_fstat :
    let at_ := fun depth words => readReg .fstat { State.reset with
      params := { Params.default with fifoDepth := depth }, fifo := words }
    at_ 2 [w1] = 0x00000001#32 ∧ at_ 2 [w1, w2] = 0x00000102#32 ∧ at_ 1 [w1] = 0x00000101#32 := by decide

/-! ## Packer, divisor, host agents, assembler -/

/-- V1. -/
theorem test_pack : pack 32767 (-32768) = 0x7FFF8000#32 ∧ pack (-1) 1 = 0xFFFF0001#32 ∧
    unpack 0x80007FFF#32 = (-32768, 32767) := by decide

/-- V9: a tie rounds up, the smallest and the largest divisor. -/
theorem test_calcDivisor : calcDivisor 16000 4002000 = .ok (3#16, 233#8) ∧ calcDivisor 187500 12000000 = .ok (1#16, 0#8) ∧
    calcDivisor 1 4194303 = .ok (65535#16, 252#8) := ⟨rfl, rfl, rfl⟩

/-- V9: the errors. -/
theorem test_calcDivisor_errors : calcDivisor 192000 12000000 = .error .outOfRange ∧
    calcDivisor 1 4194304 = .error .outOfRange ∧ calcDivisor 0 12000000 = .error .invalidInput ∧
    calcDivisor 44100 0 = .error .invalidInput := ⟨rfl, rfl, rfl, rfl⟩

/-- S6: the producer polls, then writes the pair at its index and advances modulo N. -/
theorem test_producer :
    let s := { offered .producerTurn with cpu := { idx := 2, phase := .enqueue, boot := 0 } }
    (cycle s).fifo = [w2] ∧ (cycle s).cpu = Cpu.start ∧
      (cycle (offered .producerTurn)).cpu = { Cpu.start with phase := .enqueue } ∧
      (cycle { offered .producerTurn with fifo := [w1, w2] }).cpu = Cpu.start := by decide

/-- P1, cycle 1: the loader's first write. -/
theorem test_loader : (cycle (offered .loaderTurn)).imem = [(0, 0x7001#16)] ∧ (cycle (offered .loaderTurn)).cpu.boot = 1 := by decide

/-- P2, as the assembler's items. -/
theorem test_assemble :
    assemble [.program ['c'], .sideSet 2, .instr { op := .set 2, side := 0, delay := 0 }, .label ['l'] false,
        .instr { op := .out 1, side := 1, delay := 0 }, .instr { op := .jmp (.label ['l']), side := 0, delay := 0 }] =
      some { words := [0xE022#16, 0x6801#16, 0x0041#16], entry := 0#5, wrapBottom := 0#5, wrapTop := 2#5 } := by decide

/-- R103: one source line, and one with a delay, which is refused when assembled. -/
theorem test_parse :
    parseSource "jmp x-- loop side 0b01 ; again".toList =
        some [.instr { op := .jmp (.label "loop".toList), side := 1, delay := 0 }] ∧
      parseSource "set x, 0x0e side 3 [2]".toList = some [.instr { op := .set 14, side := 3, delay := 2 }] := by decide

/-- V2: a disassembled word. -/
theorem test_disassemble : disassemble 0x005F#16 = "jmp x-- 31 side 0b00" ∧ disassemble 0x80A0#16 = ".word 0x80a0 ; illegal" := by
  decide

/-- R39: the lines on their pins. -/
theorem test_pins : { State.reset with eng := { Engine.reset with sideOut := 0b01#2 } }.pinLevel 13 = some true ∧
    { State.reset with eng := { Engine.reset with sideOut := 0b01#2 } }.pinLevel 14 = some false := by decide

/-- Log 13: a placed instruction is what the next step runs, from reset. -/
theorem test_withFetchWord :
    (cycle (State.reset.withFetchWord 16 0xF82E)).eng = { Engine.reset with pc := 1#5, x := 14#32, xWritten := true, sideOut := 0b11#2 } ∧
      (cycle (State.reset.withFetchWord 16 0x7001)).marks.underrunSeen = true := by decide

/-! ## Witnesses: states and operands that meet the hypotheses of each obligation, clause by clause, at the ends of the
ranges. A `step … = .next …` is met by `rfl`, with the state that `cycle` gives. -/

/-- Both directions of `AdmittedWordsAreTheDecodedOnes` and of `DecodeAndEncodeAgree`. -/
theorem witness_encoding : admitted 0xF83F#16 = true ∧ decode 0xF83F#16 = some (.setX 0b11#2 31#5) ∧
    encode (.setX 0b11#2 31#5) = 0xF83F#16 ∧ admitted 0x0000#16 = false := by decide

/-- `CompletedInstructionMovesPc`: PC at WRAP_TOP and PC = 31 away from it; an OUT that shifts and one that pulls; X = 0
and X = 1. -/
theorem witness_CompletedInstructionMovesPc :
    (let s := running 7#5 0x7001#16 .idle; s.eng.pc = s.regs.wrapTop) ∧
      (let s := running 31#5 0x7001#16 .idle; s.eng.pc ≠ s.regs.wrapTop) ∧
      (let s := { running 0#5 0x7001#16 .idle with fifo := [w1] }; s.eng.osrCount = 32#6 ∧ s.fifo ≠ []) ∧
      (let s := { running 0#5 0x7001#16 .idle with eng := { Engine.reset with osrCount := 31#6 } };
        s.eng.osrCount = 32#6 → s.fifo ≠ []) ∧
      (let s := { running 0#5 0x1840#16 .idle with eng := { Engine.reset with xWritten := true } };
        s.eng.xWritten = true ∧ s.eng.x = 0#32) ∧
      (let s := { running 0#5 0x1840#16 .idle with eng := { Engine.reset with x := 1#32, xWritten := true } };
        s.eng.xWritten = true ∧ s.eng.x ≠ 0#32) := by decide

/-- `OutPins1ShiftsOneBitOrStalls`: osr_count 0 and 31, 32 with one entry, 32 with none. -/
theorem witness_OutPins1ShiftsOneBitOrStalls :
    { Engine.reset with osrCount := 0#6 }.osrCount ≠ 32#6 ∧ { Engine.reset with osrCount := 31#6 }.osrCount ≠ 32#6 ∧
      (let s := { State.reset with fifo := [w1] }; s.eng.osrCount = 32#6 ∧ s.fifo = w1 :: []) ∧
      State.reset.eng.osrCount = 32#6 ∧ State.reset.fifo = [] := by decide

/-- Any list of instructions can be issued. -/
theorem execRun_exists (is : List Instr) : ∀ s, ∃ t, ExecRun is s t := by
  induction is with
  | nil => exact fun s => ⟨s, .done s⟩
  | cons i is ih =>
    intro s
    obtain ⟨t, ht⟩ := exec_answers_next i s
    obtain ⟨u, hu⟩ := ih t
    exact ⟨u, .issue i is s t u ht hu⟩

/-- `WordLeavesMsbFirst`: the first bit, the last bit, and an OUT after another instruction. -/
theorem witness_WordLeavesMsbFirst :
    let s := { State.reset with fifo := [w1] }
    s.eng.osrCount = 32#6 ∧ s.fifo = w1 :: [] ∧ ∀ is n,
      (is, n) ∈ [([Instr.outPins1 0b00#2], 1), (List.replicate 32 (Instr.outPins1 0b10#2), 32),
        ([Instr.setX 0b00#2 2#5, Instr.outPins1 0b01#2], 1)] →
      (∃ t, ExecRun is s t) ∧ is.countP isOut = n ∧ 1 ≤ n ∧ n ≤ 32 := by
  refine ⟨rfl, rfl, fun is n h => ⟨execRun_exists is _, ?_⟩⟩
  simp only [List.mem_cons, Prod.mk.injEq, List.not_mem_nil, or_false] at h
  rcases h with ⟨rfl, rfl⟩ | ⟨rfl, rfl⟩ | ⟨rfl, rfl⟩ <;> decide

/-- `JmpXDecDecrementsAndBranches`: X written, and X unwritten after reset. -/
theorem witness_JmpXDecDecrementsAndBranches :
    { State.reset with eng := { Engine.reset with xWritten := true } }.eng.xWritten = true ∧
      State.reset.eng.xWritten = false := by decide

/-- `IssuedInstructionWritesSideOut`: a jump with X written, and an instruction that is no jump. -/
theorem witness_IssuedInstructionWritesSideOut :
    (∀ ss addr, Instr.jmpXDec 0b11#2 31#5 = .jmpXDec ss addr →
        { State.reset with eng := { Engine.reset with xWritten := true } }.eng.xWritten = true) ∧
      (∀ ss addr, Instr.outPins1 0b11#2 = .jmpXDec ss addr → State.reset.eng.xWritten = true) :=
  ⟨fun _ _ _ => rfl, fun _ _ h => by cases h⟩

/-- `InstructionFrame`: every constructor answers a next state, OUT in each of its cases. -/
theorem witness_InstructionFrame :
    (∃ t, exec (.outPins1 0b00#2) State.reset = .next t) ∧
      (∃ t, exec (.outPins1 0b00#2) { State.reset with fifo := [w1] } = .next t) ∧
      (∃ t, exec (.jmpXDec 0b00#2 31#5) State.reset = .next t) ∧
      (∃ t, exec (.setX 0b00#2 31#5) State.reset = .next t) ∧
      (∀ ss, Instr.setX 0b00#2 31#5 ≠ .outPins1 ss) ∧ ∃ ss, Instr.outPins1 0b00#2 = .outPins1 ss :=
  ⟨⟨_, rfl⟩, ⟨_, rfl⟩, ⟨_, rfl⟩, ⟨_, rfl⟩, by decide, ⟨_, rfl⟩⟩

/-- `StepRunsTheDecodedInstruction`, at the last address. -/
theorem witness_StepRunsTheDecodedInstruction :
    let s := running 31#5 0xF82E#16 (.read 0x00C#12 32)
    s.nextInput.rst = false ∧ s.tickDue = true ∧ s.imem.read s.eng.pc.toNat = some 0xF82E#16 ∧
      decode 0xF82E#16 = some (.setX 0b11#2 14#5) := by decide

/-- `PlacedWordIsIssuedNext`, for a word of each form. -/
theorem witness_PlacedWordIsIssuedNext :
    decodeTableWord 16 0x7801 = some (.outPins1 0b11#2) ∧ decodeTableWord 16 0x005F = some (.jmpXDec 0b00#2 31#5) ∧
      decodeTableWord 16 0xF83F = some (.setX 0b11#2 31#5) := by decide

/-- `UnwrittenFetchRecordsTheFault`, with a TXF write in the same cycle and without. -/
theorem witness_UnwrittenFetchRecordsTheFault :
    (let s := { running 31#5 0#16 (.write 0x010#12 32 w1) with imem := [] };
      s.nextInput.rst = false ∧ s.tickDue = true ∧ s.imem.read s.eng.pc.toNat = none ∧ acceptedWord s = some w1) ∧
      (let s := { running 31#5 0#16 .idle with imem := [(30, 0x7001#16)] };
        s.nextInput.rst = false ∧ s.tickDue = true ∧ s.imem.read s.eng.pc.toNat = none) := by decide

/-- `IllegalWordRecordsTheRefusal`, with the smallest and the largest word. -/
theorem witness_IllegalWordRecordsTheRefusal :
    let meets := fun w => let s := running 0#5 w .idle
      s.nextInput.rst = false ∧ s.tickDue = true ∧ s.imem.read s.eng.pc.toNat = some w ∧ admitted w = false
    meets 0x0000#16 ∧ meets 0xFFFF#16 := ⟨⟨rfl, rfl, rfl, rfl⟩, ⟨rfl, rfl, rfl, rfl⟩⟩

/-- `PausedBlockHoldsItsState`: a cycle without a PROGCTRL write, and one with. -/
theorem witness_PausedBlockHoldsItsState :
    (offered .idle).nextInput.rst = false ∧ (offered .idle).regs.en = false ∧
      (offered (.write 0x008#12 32 0x001F1F1F#32)).nextInput.rst = false ∧
      (offered (.write 0x008#12 32 0x001F1F1F#32)).regs.en = false ∧
      ∀ v, accessOf (offered .idle).nextInput.op (offered .idle) ≠ .write 0x008#12 32 v :=
  ⟨rfl, rfl, rfl, rfl, fun _ h => by cases h⟩

/-- `DividerStepInEachCase`: paused; INT = 0; a tick at equality and with the largest accumulator; no tick one unit short of
one, and with the largest divisor. -/
theorem witness_DividerStepInEachCase :
    let s := fun en int frac acc => { offered .idle with
      divAcc := acc, regs := { Regs.reset with en := en, divInt := int, divFrac := frac } }
    let fits := fun t : State => t.nextInput.rst = false ∧ t.divAcc.toNat < 2 ^ 24
    let ticks := fun t : State => t.regs.divInt.toNat * 256 + t.regs.divFrac.toNat ≤ t.divAcc.toNat + 256
    fits (s false 1#16 0#8 0xFFFFFF#25) ∧ (s false 1#16 0#8 0xFFFFFF#25).regs.en = false ∧
      fits (s true 0#16 255#8 0#25) ∧ (s true 0#16 255#8 0#25).regs.divInt = 0#16 ∧
      fits (s true 1#16 0#8 0#25) ∧ ticks (s true 1#16 0#8 0#25) ∧
      fits (s true 65535#16 255#8 0xFFFFFF#25) ∧ ticks (s true 65535#16 255#8 0xFFFFFF#25) ∧
      fits (s true 1#16 1#8 0#25) ∧ ¬ ticks (s true 1#16 1#8 0#25) ∧
      fits (s true 65535#16 255#8 0xFFFEFE#25) ∧ ¬ ticks (s true 65535#16 255#8 0xFFFEFE#25) := by decide

/-- `TickCountOverRunningCycles`: two cycles at D = 1.5, of which the second is a tick. -/
theorem witness_TickCountOverRunningCycles :
    let s := { running 0#5 0xE020#16 .idle with regs := { Regs.reset with en := true, divFrac := 128#8 } }
    TickRun 2 1 s (cycle (cycle s)) ∧ s.regs.divInt ≠ 0#16 ∧ s.divAcc.toNat < s.regs.dq.toNat := by
  intro s
  have first : s.tickDue = false := by decide
  have second : (cycle s).tickDue = true := by decide
  have r := TickRun.cycle 0 0 (cycle s) _ _ (by decide) (by decide) (step_cycle _ (by decide)) (.done _)
  rw [second] at r
  have q := TickRun.cycle _ _ s _ _ rfl rfl (step_cycle _ rfl) r
  rw [first] at q
  exact ⟨q, by decide, by decide⟩

/-- `EngineRegistersChangeOnlyByTheirInstructions`: each register does change, X by a SET and by a JMP. -/
theorem witness_EngineRegistersChangeOnlyByTheirInstructions :
    let out := { running 0#5 0x7001#16 .idle with fifo := [0x80000001#32] }
    let set := running 0#5 0xE83F#16 .idle
    let jmp := { running 0#5 0x1840#16 .idle with eng := { Engine.reset with xWritten := true } }
    (out.nextInput.rst = false ∧ step out = .next (cycle out) ∧ (cycle out).eng.sdOut ≠ out.eng.sdOut ∧
      (cycle out).eng.osr ≠ out.eng.osr ∧ (cycle out).eng.osrCount ≠ out.eng.osrCount) ∧
    (set.nextInput.rst = false ∧ step set = .next (cycle set) ∧ (cycle set).eng.x ≠ set.eng.x ∧
      (cycle set).eng.sideOut ≠ set.eng.sideOut) ∧
    (jmp.nextInput.rst = false ∧ step jmp = .next (cycle jmp) ∧ (cycle jmp).eng.x ≠ jmp.eng.x ∧
      jmp.eng.xWritten = true) :=
  ⟨⟨rfl, rfl, by decide, by decide, by decide⟩, ⟨rfl, rfl, by decide, by decide⟩, ⟨rfl, rfl, by decide, rfl⟩⟩

/-- `PcChangesOnlyByAnInstructionOrProgctrl`: PC changes by an instruction, and by a PROGCTRL write. -/
theorem witness_PcChangesOnlyByAnInstructionOrProgctrl : ∀ s ∈ [running 31#5 0xE020#16 .idle,
    offered (.write 0x008#12 32 0x0000001F#32)], s.nextInput.rst = false ∧ (cycle s).eng.pc ≠ s.eng.pc := by decide

/-- `EmptyFifoStallsTheOut`, with a TXF write in the same cycle. -/
theorem witness_EmptyFifoStallsTheOut :
    let s := running 0#5 0x7001#16 (.write 0x010#12 32 w1)
    s.nextInput.rst = false ∧ s.tickDue = true ∧ s.fetch = .instr (.outPins1 0b10#2) ∧ s.eng.osrCount = 32#6 ∧
      s.fifo = [] ∧ acceptedWord s = some w1 := by decide

/-- `RstOverridesTheCycle`, with an access offered. -/
theorem witness_RstOverridesTheCycle :
    { State.reset with inputs := [{ rst := true, op := .write 0x010#12 32 w1 }] }.nextInput.rst = true := by decide

/-- `ResetStateHasTheSpecValues` at both ends of FIFO_DEPTH, and `ResetMeetsTheInvariant` with the shortest Waveform. -/
theorem witness_ResetStateHasTheSpecValues : { Params.default with fifoDepth := 1 }.depthOk = true ∧
    { Params.default with fifoDepth := 255 }.depthOk = true ∧
    { Params.default with fifoDepth := 1, wave := [-32768, 32767], sysclkHz := 1, sampleRateHz := 1 }.wf = true := by decide

/-- A state no reset gives, with the FIFO full, IMEM in use, marks recorded and the OSR half shifted out. -/
def busy : State := { running 31#5 0x7001#16 (.write 0x010#12 32 7#32) with
  eng    := { Engine.reset with pc := 31#5, osr := 0x80000000#32, osrCount := 31#6 }
  fifo   := [w1, w2]
  divAcc := 0xFFFFFF#25
  marks  := { faults := [.imemUnwritten 3#5], refusals := [.badDivisor], underrunSeen := true }
  cpu    := { idx := 2, phase := .poll, boot := 11 } }

/-- `StepKeepsTheInvariant`, in a state that no reset gives and at a cycle with `rst`. -/
theorem witness_StepKeepsTheInvariant :
    busy.Inv ∧ step busy = .next (cycle busy) ∧ (cycle busy).eng.osrCount = 32#6 := by
  refine ⟨⟨by decide, by decide, by decide, by decide, ?_, by decide, by decide, by decide, by decide, by decide⟩, rfl,
    by decide⟩
  have h : ∀ j, j < 31 → busy.eng.osr.getLsbD j = false := by decide
  exact h

/-- `MarksNeverShrink`: a cycle without `rst` that finds a fault, a refusal and an underrun recorded. -/
theorem witness_MarksNeverShrink :
    step busy = .next (cycle busy) ∧ busy.nextInput.rst = false ∧ busy.marks.faults ≠ [] ∧ busy.marks.refused = true ∧
      busy.marks.underrunSeen = true := ⟨rfl, rfl, by decide, by decide, rfl⟩

/-- `FifoUpdateOfACycle`: a cycle that pops and accepts. -/
theorem witness_FifoUpdateOfACycle :
    let s := { running 0#5 0x7001#16 (.write 0x010#12 32 w2) with fifo := [w1] }
    s.nextInput.rst = false ∧ step s = .next (cycle s) ∧ poppedWord s = some w1 ∧ acceptedWord s = some w2 :=
  ⟨rfl, rfl, by decide, by decide⟩

/-- `FifoIsFirstInFirstOut`: a run of one cycle that pops and accepts, and an empty FIFO at its start. -/
theorem witness_FifoIsFirstInFirstOut :
    QueueRun (fun _ => True) { running 0#5 0x7001#16 (.write 0x010#12 32 w2) with fifo := [w1] } [w1] [w2]
        (cycle { running 0#5 0x7001#16 (.write 0x010#12 32 w2) with fifo := [w1] }) ∧
      QueueRun (fun _ => True) (offered (.write 0x010#12 32 w1)) [] [w1] (cycle (offered (.write 0x010#12 32 w1))) ∧
      (offered (.write 0x010#12 32 w1)).fifo = [] :=
  ⟨.cycle _ _ _ [] [] rfl trivial rfl (.done _), .cycle _ _ _ [] [] rfl trivial rfl (.done _), rfl⟩

/-- `TxfWriteBelowDepthIsAccepted`: the FIFO empty and paused; one short of full while the engine pops. -/
theorem witness_TxfWriteBelowDepthIsAccepted :
    ∀ s ∈ [offered (.write 0x010#12 32 w2), { running 0#5 0x7001#16 (.write 0x010#12 32 w2) with fifo := [w1] }],
      s.nextInput.rst = false ∧ accessOf s.nextInput.op s = .write 0x010#12 32 w2 ∧ s.level < s.params.fifoDepth := by decide

/-- `TxfWriteWhenFullIsDropped`: paused, and while the engine pops. -/
theorem witness_TxfWriteWhenFullIsDropped :
    ∀ s ∈ [{ offered (.write 0x010#12 32 w2) with fifo := [w1, w1] },
        { running 0#5 0x7001#16 (.write 0x010#12 32 w2) with fifo := [w1, w1] }],
      s.nextInput.rst = false ∧ accessOf s.nextInput.op s = .write 0x010#12 32 w2 ∧ s.level = s.params.fifoDepth := by decide

/-- `FstatReadReturnsTheOccupancy`: empty, and full by a producer's poll. -/
theorem witness_FstatReadReturnsTheOccupancy :
    ∀ s ∈ [offered (.read 0x00C#12 32), { offered .producerTurn with fifo := [w1, w2] }],
      s.nextInput.rst = false ∧ accessOf s.nextInput.op s = .read 0x00C#12 32 ∧ s.level ≤ 255 := by decide

/-- `ReadsHaveNoSideEffect`, at the first and the last offset. -/
theorem witness_ReadsHaveNoSideEffect : ∀ off ∈ [0x000#12, 0x00C#12, 0xFFC#12],
    goodAccess off 32 = true ∧ (offered (.read off 32)).inputs = { rst := false, op := .read off 32 } :: [] := by decide

/-- `CtrlReadsAndSetsEnable`, `ClkdivReadsAndWrites`, `ProgctrlReadsAndWrites`: a read, a write with EN = 0, a write with
EN = 1. -/
theorem witness_config_registers : ∀ off ∈ [0x000#12, 0x004#12, 0x008#12],
    (let s := offered (.read off 32); s.nextInput.rst = false ∧ accessOf s.nextInput.op s = .read off 32) ∧
      (let s := offered (.write off 32 0xFFFFFFFF#32);
        s.nextInput.rst = false ∧ accessOf s.nextInput.op s = .write off 32 0xFFFFFFFF#32 ∧ s.regs.en = false) ∧
      (let s := running 0#5 0x7001#16 (.write off 32 0#32);
        s.nextInput.rst = false ∧ accessOf s.nextInput.op s = .write off 32 0#32 ∧ s.regs.en = true) := by decide

/-- `ImemReadsAndWrites`: the same for IMEM_0 and IMEM_31, whose offsets are 0x080 and 0x0FC. -/
theorem witness_ImemReadsAndWrites :
    BitVec.ofNat 12 (0x080 + 4 * (0#5).toNat) = 0x080#12 ∧ BitVec.ofNat 12 (0x080 + 4 * (31#5).toNat) = 0x0FC#12 ∧
      ∀ off ∈ [0x080#12, 0x0FC#12],
        (let s := offered (.read off 32); s.nextInput.rst = false ∧ accessOf s.nextInput.op s = .read off 32) ∧
          (let s := offered (.write off 32 0xA042#32);
            s.nextInput.rst = false ∧ accessOf s.nextInput.op s = .write off 32 0xA042#32 ∧ s.regs.en = false) ∧
          (let s := running 0#5 0x7001#16 (.write off 32 0xA042#32);
            s.nextInput.rst = false ∧ accessOf s.nextInput.op s = .write off 32 0xA042#32 ∧ s.regs.en = true) := by decide

/-- `BadAccessIsRecordedAndNotPerformed`: a wrong width at a good offset, a good width at a wrong offset. -/
theorem witness_BadAccessIsRecordedAndNotPerformed :
    (16 ≠ 32 ∨ (0x010#12).toNat % 4 ≠ 0) ∧ (32 ≠ 32 ∨ (0xFFF#12).toNat % 4 ≠ 0) ∧
      (offered (.write 0x010#12 16 w1)).inputs = { rst := false, op := .write 0x010#12 16 w1 } :: [] ∧
      (offered (.read 0xFFF#12 32)).inputs = { rst := false, op := .read 0xFFF#12 32 } :: [] := by decide

/-- `UnmappedOffsetsReadZeroAndIgnoreWrites`: the four ends of the two ranges; no other register stands there. -/
theorem witness_UnmappedOffsetsReadZeroAndIgnoreWrites : ∀ off ∈ [0x014#12, 0x07C#12, 0x100#12, 0xFFC#12],
    off.toNat % 4 = 0 ∧ ((0x014 ≤ off.toNat ∧ off.toNat ≤ 0x07C) ∨ (0x100 ≤ off.toNat ∧ off.toNat ≤ 0xFFC)) ∧
      regAt off = .unmapped ∧ (offered (.read off 32)).inputs = { rst := false, op := .read off 32 } :: [] ∧
      (offered (.write off 32 w1)).inputs = { rst := false, op := .write off 32 w1 } :: [] := by decide

/-- `FstatIgnoresWritesAndTxfReadsZero`. -/
theorem witness_FstatIgnoresWritesAndTxfReadsZero :
    (offered (.write 0x00C#12 32 w1)).inputs = { rst := false, op := .write 0x00C#12 32 w1 } :: [] ∧
      (offered (.read 0x010#12 32)).inputs = { rst := false, op := .read 0x010#12 32 } :: [] := by decide

/-- `RunningBlockKeepsItsConfiguration`: a cycle that tries to write IMEM, and one that clears EN. -/
theorem witness_RunningBlockKeepsItsConfiguration :
    let s := running 0#5 0x7001#16 (.write 0x080#12 32 w1)
    let u := running 0#5 0x7001#16 (.write 0x000#12 32 0#32)
    s.nextInput.rst = false ∧ s.regs.en = true ∧ step s = .next (cycle s) ∧
      u.nextInput.rst = false ∧ u.regs.en = true ∧ step u = .next (cycle u) ∧ (cycle u).regs.en = false :=
  ⟨rfl, rfl, rfl, rfl, rfl, rfl, by decide⟩

/-- `AccessDoesNotReachTheEngineInItsCycle`: running with CTRL written, and paused with PROGCTRL written. -/
theorem witness_AccessDoesNotReachTheEngineInItsCycle :
    let s := running 0#5 0x7001#16 .idle
    (∃ t u, step { s with inputs := { rst := false, op := .write 0x000#12 32 0#32 } :: [] } = .next t ∧
        step { s with inputs := { rst := false, op := .write 0x010#12 32 w1 } :: [] } = .next u ∧ s.regs.en = true) ∧
      (∃ t u, step { State.reset with inputs := { rst := false, op := .write 0x008#12 32 7#32 } :: [] } = .next t ∧
        step { State.reset with inputs := { rst := false, op := .idle } :: [] } = .next u ∧ t.eng.pc ≠ u.eng.pc) :=
  ⟨⟨_, _, rfl, rfl, rfl⟩, ⟨_, _, rfl, rfl, by decide⟩⟩

/-- `RefusalAndFaultOfOneCycleAreBothRecorded`. -/
theorem witness_RefusalAndFaultOfOneCycleAreBothRecorded :
    let s := { running 0#5 0x7001#16 (.write 0x010#12 32 7#32) with
      regs := { Regs.reset with en := true, divInt := 0#16, divFrac := 255#8 }, fifo := [w1, w2] }
    s.nextInput.rst = false ∧ s.regs.en = true ∧ s.regs.divInt = 0#16 ∧
      accessOf s.nextInput.op s = .write 0x010#12 32 7#32 ∧ s.level = s.params.fifoDepth := by decide

/-- `OutputLinesDriveTheirPins`: the pins of this build. -/
theorem witness_OutputLinesDriveTheirPins :
    State.reset.params.pins = { data := 15, bitClock := 13, wordSelect := 14 } := by decide

/-- `PackAndUnpackAreInverse`: both ends of a Sample's range. -/
theorem witness_PackAndUnpackAreInverse : sampleInRange (-32768) = true ∧ sampleInRange 32767 = true := by decide

/-- `CalcDivisorRoundsToNearest` and `CalcDivisorIsAccurate`: the smallest and the largest result. -/
theorem witness_CalcDivisor : calcDivisor 187500 12000000 = .ok (1#16, 0#8) ∧
    calcDivisor 1 4194303 = .ok (65535#16, 252#8) ∧ 256 = (1#16).toNat * 256 + (0#8).toNat ∧
    16777212 = (65535#16).toNat * 256 + (252#8).toNat := ⟨rfl, rfl, by decide, by decide⟩

/-- `ProducerTurnFollowsTheIteration`: the last pair of the Waveform, in both phases. -/
theorem witness_ProducerTurnFollowsTheIteration : ∀ phase ∈ [ProducerPhase.poll, ProducerPhase.enqueue],
    let s := { offered .producerTurn with cpu := { idx := 2, phase := phase, boot := 0 } }
    s.nextInput = { rst := false, op := .producerTurn } ∧ s.params.waveOk = true ∧ s.params.wave[s.cpu.idx]? = some 200 ∧
      s.params.wave[s.cpu.idx + 1]? = some (-200) ∧ s.cpu.phase = phase := by decide

/-- `ProducerNeverOverflowsTheFifo`: the producer about to fill the last place. -/
theorem witness_ProducerNeverOverflowsTheFifo :
    let s := { offered .producerTurn with cpu := { Cpu.start with phase := .enqueue }, fifo := [w1] }
    s.Inv ∧ s.ProducerSafe ∧ s.onlyProducerWrites = true ∧ step s = .next (cycle s) ∧ (cycle s).fifo = [w1, w1] := by
  refine ⟨⟨by decide, by decide, by decide, by decide, ?_, by decide, by decide, by decide, by decide, by decide⟩,
    fun _ => by decide, by decide, rfl, by decide⟩
  have h : ∀ j, j < 32 → Engine.reset.osr.getLsbD j = false := by decide
  exact h

/-- `WordsFollowTheWaveform`: a poll and a write, one word accepted. -/
theorem witness_WordsFollowTheWaveform :
    let s := { State.reset with inputs := [{ rst := false, op := .producerTurn }, { rst := false, op := .producerTurn }] }
    s.Inv ∧ s.cpu.idx = 0 ∧ s.cpu.phase = .poll ∧ s.fifo = [] ∧
      QueueRun (fun q => q.onlyProducerWrites = true) s [] [w1] (cycle (cycle s)) := by
  refine ⟨⟨by decide, by decide, by decide, by decide, ?_, by decide, by decide, by decide, by decide, by decide⟩, rfl,
    rfl, rfl, .cycle _ _ _ [] [w1] rfl rfl rfl (.cycle _ _ _ [] [] rfl rfl rfl (.done _))⟩
  have h : ∀ j, j < 32 → Engine.reset.osr.getLsbD j = false := by decide
  exact h

/-- `ProducerSeesOnlyTheOccupancy`: two states that differ in the engine, IMEM, the divider and the words held. -/
theorem witness_ProducerSeesOnlyTheOccupancy :
    let s := { offered .producerTurn with fifo := [w1] }
    let t := { running 0#5 0x7001#16 .producerTurn with fifo := [w2], divAcc := 7#25 }
    s.nextInput = { rst := false, op := .producerTurn } ∧ t.nextInput = { rst := false, op := .producerTurn } ∧
      s.params = t.params ∧ s.cpu = t.cpu ∧ s.level = t.level ∧ step s = .next (cycle s) ∧ step t = .next (cycle t) :=
  ⟨rfl, rfl, rfl, rfl, rfl, rfl, rfl⟩

/-- `LoaderWritesTheMicroprogram`: the default parameters. -/
theorem witness_LoaderWritesTheMicroprogram :
    Params.default.image = Image.i2s ∧ Params.default.pins.wordSelect = Params.default.pins.bitClock + 1 ∧
      calcDivisor Params.default.sampleRateHz Params.default.sysclkHz = .ok (4#16, 64#8) := ⟨rfl, rfl, rfl⟩

/-- `LoaderTurnPerformsItsScript`: the first write, the last one, and a turn after it. -/
theorem witness_LoaderTurnPerformsItsScript :
    let s := fun boot => { offered .loaderTurn with cpu := { Cpu.start with boot := boot } }
    ∃ script, loaderScript Params.default = .ok script ∧
      (s 0).nextInput = { rst := false, op := .loaderTurn } ∧ (s 0).params = Params.default ∧
      script[(s 0).cpu.boot]? = some (0x080#12, 0x7001#32) ∧ script[(s 10).cpu.boot]? = some (0x000#12, 1#32) ∧
      script.length ≤ (s 11).cpu.boot :=
  ⟨_, rfl, rfl, rfl, rfl, rfl, by decide⟩

/-- `InitialisationErrorNeverStartsTheBlock`: each of the four errors; the illegal word stands at the entry point. -/
theorem witness_InitialisationErrorNeverStartsTheBlock :
    let p := Params.default
    let bad : Image := { words := [0xA042#16], entry := 0#5, wrapBottom := 0#5, wrapTop := 0#5 }
    (offered .loaderTurn).nextInput = { rst := false, op := .loaderTurn } ∧
      32 < { p with image := { Image.i2s with words := List.replicate 33 0x6001#16 } }.image.words.length ∧
      (∃ a ∈ imageReachable bad, ∃ w, bad.words[a.toNat]? = some w ∧ admitted w = false) ∧
      { p with pins := { data := 15, bitClock := 13, wordSelect := 12 } }.pins.wordSelect ≠ 13 + 1 ∧
      ∃ e, calcDivisor 0 p.sysclkHz = .error e :=
  ⟨rfl, by decide, ⟨0#5, by decide, 0xA042#16, rfl, rfl⟩, by decide, ⟨_, rfl⟩⟩

/-- `EveryCycleIsAnUntimedRun`: a cycle in which the engine pops and the port writes TXF. -/
theorem witness_EveryCycleIsAnUntimedRun :
    let s := { running 0#5 0x7001#16 (.write 0x010#12 32 w2) with fifo := [w1] }
    s.params.depthOk = true ∧ s.nextInput.rst = false ∧ step s = .next (cycle s) := ⟨rfl, rfl, rfl⟩

end Sys2Proof.Tests
end

/-! The statements of spec/20_memory.md: the FIFO is first-in first-out (R69), a bad access is recorded and not
performed (R61), an unmapped offset reads 0 and ignores writes (R67). -/

namespace Sys2Proof.Machine

/-! ## The FIFO over a run (R69) -/

/-- The queue law of one cycle: what leaves at the head and what stays is what was there and what enters at the tail. -/
theorem popped_append_fifo_of_step {s t : State} (noRst : s.nextInput.rst = false) (h : step s = .next t) :
    (poppedWord s).toList ++ t.fifo = s.fifo ++ (acceptedWord s).toList := by
  obtain ⟨u, -, turn, e⟩ := step_split s noRst
  obtain rfl : t = portStep s.nextInput.op s.begin u := by simpa [h] using e
  rw [portStep_fifo, ← List.append_assoc, turn.frame.fifo]

/-- The queue law of a run, from the law of each of its cycles. -/
theorem QueueRun.popped_append_fifo {ok : State → Prop} {s u : State} {popped accepted : List Word32}
    (run : QueueRun ok s popped accepted u) : popped ++ u.fifo = s.fifo ++ accepted := by
  induction run with
  | done s => simp
  | cycle s t u popped accepted noRst _ first _ ih =>
    calc (poppedWord s).toList ++ popped ++ u.fifo
        = (poppedWord s).toList ++ t.fifo ++ accepted := by simp [ih]
      _ = s.fifo ++ ((acceptedWord s).toList ++ accepted) := by
          rw [popped_append_fifo_of_step noRst first, List.append_assoc]

/-- Settles O29: the queue law of a run; from an empty FIFO the words still held are what the popped ones lack of the
accepted ones. -/
theorem fifoIsFirstInFirstOut : Obligations.FifoIsFirstInFirstOut := by
  intro s u popped accepted run
  have law := run.popped_append_fifo
  exact ⟨law, fun empty => ⟨u.fifo, by simpa [empty] using law⟩⟩

/-! ## Raw accesses (R61, R67) -/

/-- An access that is no turn of a host agent leaves the agents where they are: the port's part is `BusStep` alone. -/
theorem portStep_eq_busStep {op : BusOp} {s u : State} (raw : cpuAfter op s = u.cpu) :
    portStep op s.begin u = busStep (accessOf op s) s.begin u := by
  have same : u.setCpu u.cpu = u := rfl
  simp only [portStep, accessOf_begin, cpuAfter_begin, raw, same]

/-- R61: a bad access, whether read or write, only records itself. -/
theorem busStep_of_badAccess {a : Access} {off : Offset} {width : Nat} (pre post : State)
    (ha : a = .read off width ∨ ∃ v, a = .write off width v) (bad : width ≠ 32 ∨ off.toNat % 4 ≠ 0) :
    busStep a pre post = post.raise (.badAccess off width) := by
  have notGood : ¬ goodAccess off width = true := by
    rw [goodAccess_iff]
    omega
  rcases ha with rfl | ⟨v, rfl⟩
  · exact if_neg notGood
  · exact if_neg notGood

/-- R67: a good read of an unmapped offset returns 0. -/
theorem busStep_read_unmapped {off : Offset} (pre post : State) (good : goodAccess off 32 = true)
    (unmapped : regAt off = .unmapped) : busStep (.read off 32) pre post = post.setRdata 0#32 := by
  simp [busStep, good, unmapped, readReg]

/-- R67: a good write of an unmapped offset does nothing. -/
theorem busStep_write_unmapped {off : Offset} (v : Word32) (pre post : State) (good : goodAccess off 32 = true)
    (unmapped : regAt off = .unmapped) : busStep (.write off 32 v) pre post = post := by
  simp [busStep, good, unmapped, writeReg]

/-- Settles O38: the port's part of the cycle is one bad access, on the state that the quiet cycle answers. -/
theorem badAccessIsRecordedAndNotPerformed : Obligations.BadAccessIsRecordedAndNotPerformed := by
  intro s op off width rest hop bad hin
  obtain ⟨u, -, noValue, cpu, quiet, e⟩ := step_quiet s op rest hin
  refine ⟨u, quiet, noValue, ?_⟩
  obtain ⟨raw, access⟩ : cpuAfter op s = s.cpu ∧
      (accessOf op s = .read off width ∨ ∃ v, accessOf op s = .write off width v) := by
    rcases hop with rfl | ⟨v, rfl⟩
    · exact ⟨rfl, .inl rfl⟩
    · exact ⟨rfl, .inr ⟨v, rfl⟩⟩
  rw [e, portStep_eq_busStep (raw.trans cpu.symm), busStep_of_badAccess s.begin u access bad]

/-- Settles O39: the offset is good and unmapped, so the port's part returns 0 for a read and is nothing for a write. -/
theorem unmappedOffsetsReadZeroAndIgnoreWrites : Obligations.UnmappedOffsetsReadZeroAndIgnoreWrites := by
  intro s op off rest aligned range hin
  have good : goodAccess off 32 = true := (goodAccess_iff off 32).2 ⟨rfl, aligned⟩
  have unmapped : regAt off = .unmapped := regAt_eq_unmapped off aligned range
  obtain ⟨u, -, -, cpu, quiet, e⟩ := step_quiet s op rest hin
  refine ⟨u, quiet, ?_, ?_⟩
  · rintro rfl
    rw [e, portStep_eq_busStep (op := .read off 32) (s := s) cpu.symm]
    exact congrArg _ (busStep_read_unmapped s.begin u good unmapped)
  · rintro v rfl
    rw [e, portStep_eq_busStep (op := .write off 32 v) (s := s) cpu.symm]
    exact congrArg _ (busStep_write_unmapped v s.begin u good unmapped)

end Sys2Proof.Machine

/-! The statements of spec/40_engine_instructions.md about one instruction: the successor of PC (R124), `OUT PINS, 1`
(R125), `JMP X--, addr` (R127) and `SET X, imm` (R128). -/

namespace Sys2Proof.Machine

/-! ## What `exec` answers, an equation per case

The answers stand as compositions of the named operations; the laws of State.lean read a field of them. -/

theorem exec_setX (ss : SideSet) (imm : BitVec 5) (s : State) :
    exec (.setX ss imm) s = .next (((s.issue ss).writeX (setOperand imm)).goto s.nextPc) := rfl

theorem exec_outPins1_shift {s : State} (ss : SideSet) (loaded : s.eng.osrCount ≠ 32#6) :
    exec (.outPins1 ss) s = .next (((s.issue ss).shiftOut s.eng.osr s.eng.osrCount).goto s.nextPc) :=
  if_neg loaded

theorem exec_outPins1_pull {s : State} {v : Word32} {rest : List Word32} (ss : SideSet)
    (spent : s.eng.osrCount = 32#6) (head : s.fifo = v :: rest) :
    exec (.outPins1 ss) s = .next (((s.issue ss).popFifo.shiftOut v 0#6).goto s.nextPc) := by
  simp [exec, execOutPins1, spent, head]

theorem exec_outPins1_stall {s : State} (ss : SideSet) (spent : s.eng.osrCount = 32#6) (empty : s.fifo = []) :
    exec (.outPins1 ss) s = .next (s.issue ss).noteUnderrun := by
  simp [exec, execOutPins1, spent, empty]

theorem exec_jmpXDec_written {s : State} (ss : SideSet) (addr : ImemAddr) (written : s.eng.xWritten = true) :
    exec (.jmpXDec ss addr) s =
      .next (((s.issue ss).writeX (s.eng.x - 1#32)).goto (if s.eng.x = 0#32 then s.nextPc else addr)) := by
  simp [exec, execJmpXDec, written, State.xNonzero, jumpTarget]

theorem exec_jmpXDec_unwritten {s : State} (ss : SideSet) (addr : ImemAddr) (unwritten : s.eng.xWritten = false) :
    exec (.jmpXDec ss addr) s = .next (s.raise (.xUnwritten s.eng.pc)) := by
  simp [exec, execJmpXDec, unwritten]

/-! ## The successor of PC (R124) -/

theorem State.nextPc_of_wrapTop {s : State} (top : s.eng.pc = s.regs.wrapTop) : s.nextPc = s.regs.wrapBottom :=
  if_pos top

theorem State.toNat_nextPc_of_ne_wrapTop {s : State} (away : s.eng.pc ≠ s.regs.wrapTop) :
    s.nextPc.toNat = (s.eng.pc.toNat + 1) % 32 := by
  have successor : s.nextPc = s.eng.pc + 1#5 := if_neg away
  simp [successor, BitVec.toNat_add]

/-! ## The values as the rules write them -/

/-- R125: `shiftOut` sends out bit 31 and keeps {v[30:0], 0}. -/
theorem State.shiftOut_eq_concat (v : Word32) (n : BitVec 6) (s : State) :
    s.shiftOut v n = { s with eng := { s.eng with
      sdOut := v.getLsbD 31, osr := v.extractLsb' 0 31 ++ 0#1, osrCount := n + 1#6 } } := by
  have top : v.msb = v.getLsbD 31 := BitVec.msb_eq_getLsbD_last v
  have shifted : v <<< 1 = v.extractLsb' 0 31 ++ 0#1 := BitVec.shiftLeft_eq_concat_of_lt (by decide)
  simp only [State.shiftOut, top, shifted]

/-- R127: the decrement is addition of 2^32 - 1 modulo 2^32. -/
theorem sub_one_eq_ofNat (x : Word32) : x - 1#32 = BitVec.ofNat 32 (x.toNat + (2 ^ 32 - 1)) := by
  bv_omega

/-- R128: SET's operand is the immediate as a number. -/
theorem setOperand_eq_ofNat (imm : BitVec 5) : setOperand imm = BitVec.ofNat 32 imm.toNat :=
  (BitVec.ofNat_toNat 32 imm).symm

/-- A write of X when X is written leaves the mark as it is. -/
theorem State.writeX_of_written {s : State} (v : Word32) (written : s.eng.xWritten = true) :
    s.writeX v = { s with eng := { s.eng with x := v } } := by
  simp only [State.writeX, ← written]

/-! ## The instructions -/

/-- Settles O5: SET, an OUT that does not stall and a JMP with X written end in a `goto`, whose address is PC. -/
theorem completedInstructionMovesPc : Obligations.CompletedInstructionMovesPc := by
  refine ⟨fun s => ⟨State.nextPc_of_wrapTop, State.toNat_nextPc_of_ne_wrapTop⟩,
    fun ss imm s => ⟨_, exec_setX ss imm s, rfl⟩, fun ss s noStall => ?_,
    fun ss addr s written => ⟨_, exec_jmpXDec_written ss addr written, rfl⟩⟩
  by_cases spent : s.eng.osrCount = 32#6
  · obtain ⟨v, rest, head⟩ := List.exists_cons_of_ne_nil (noStall spent)
    exact ⟨_, exec_outPins1_pull ss spent head, rfl⟩
  · exact ⟨_, exec_outPins1_shift ss spent, rfl⟩

/-- Settles O6: the three cases of `exec`, with the word shifted out as a concatenation. -/
theorem outPins1ShiftsOneBitOrStalls : Obligations.OutPins1ShiftsOneBitOrStalls := by
  intro ss s
  refine ⟨fun loaded => ?_, fun v rest spent head => ?_, fun spent empty => exec_outPins1_stall ss spent empty⟩
  · rw [exec_outPins1_shift ss loaded, State.shiftOut_eq_concat]
    rfl
  · have tail : (s.issue ss).popFifo = { s.issue ss with fifo := rest } := by simp [State.popFifo, head]
    rw [exec_outPins1_pull ss spent head, State.shiftOut_eq_concat, tail]
    rfl

/-- Settles O8: with X written the mark stays and X less 1 is the number of R127; with X unwritten `raise` changes the
marks only. -/
theorem jmpXDecDecrementsAndBranches : Obligations.JmpXDecDecrementsAndBranches := by
  intro ss addr s
  refine ⟨fun written => ?_, fun unwritten => ⟨_, exec_jmpXDec_unwritten ss addr unwritten, ?_, rfl⟩⟩
  · rw [exec_jmpXDec_written ss addr written, State.writeX_of_written (s := s.issue ss) _ written, ← sub_one_eq_ofNat]
    rfl
  · simp

/-- Settles O9: the operand is the immediate as a number. -/
theorem setXLoadsTheImmediate : Obligations.SetXLoadsTheImmediate := by
  intro ss imm s
  rw [exec_setX, setOperand_eq_ofNat]
  rfl

end Sys2Proof.Machine

/-! The statements of spec/44_fifo_and_packer.md: the packer (R160, R161), a TXF write below FIFO_DEPTH and at it (R167,
R168), FSTAT's fields (R169, R176), PROGCTRL (R175) and IMEM_k (R177). -/

namespace Sys2Proof.Machine

/-! ## The packer (R160, R161) -/

/-- Settles O45: the packed word is the two patterns appended; `unpack` is the two extractions as defined. -/
theorem packPutsLeftHighAndRightLow : Obligations.PackPutsLeftHighAndRightLow :=
  ⟨fun _ _ => ⟨BitVec.extractLsb'_append_eq_left, BitVec.extractLsb'_append_eq_right⟩, fun _ => rfl,
    by decide, by decide⟩

/-! ## A cycle with a good access: the engine's part, then one register (R45, R172) -/

/-- What the engine's part leaves in the FIFO is the old FIFO less the word popped. -/
theorem TurnFrame.fifo_eq_drop {s u : State} (frame : TurnFrame s u) :
    u.fifo = s.fifo.drop (poppedWord s).toList.length := by
  rw [← frame.fifo, List.drop_left]

/-- A good read returns the register's value in the pre-state, and changes no register and no word of IMEM. -/
theorem step_of_read {s : State} {off : Offset} (noRst : s.nextInput.rst = false) (good : goodAccess off 32 = true)
    (access : accessOf s.nextInput.op s = .read off 32) :
    ∃ t, step s = .next t ∧ t.rdata = some (readReg (regAt off) s) ∧ t.regs = s.regs ∧ t.imem = s.imem := by
  obtain ⟨u, -, turn, e⟩ := step_split s noRst
  rw [portStep_read s u off good access] at e
  exact ⟨_, e, rfl, turn.frame.regs, turn.frame.imem⟩

/-- A good write is performed on what the engine's part answers. -/
theorem step_of_write {s : State} {off : Offset} {v : Word32} (noRst : s.nextInput.rst = false)
    (good : goodAccess off 32 = true) (access : accessOf s.nextInput.op s = .write off 32 v) :
    ∃ u, dividerTurn s.begin = .next u ∧ TurnFrame s u ∧
      step s = .next (writeReg (regAt off) v s.begin (u.setCpu (cpuAfter s.nextInput.op s))) := by
  obtain ⟨u, hu, turn, e⟩ := step_split s noRst
  rw [portStep_write s u off v good access] at e
  exact ⟨u, hu, turn.frame, e⟩

/-- With EN = 0 the engine's part is idle, so a good write is performed on the pre-state itself. -/
theorem step_of_write_paused {s : State} {off : Offset} {v : Word32} (noRst : s.nextInput.rst = false)
    (good : goodAccess off 32 = true) (access : accessOf s.nextInput.op s = .write off 32 v)
    (paused : s.regs.en = false) :
    step s = .next (writeReg (regAt off) v s.begin (s.begin.setCpu (cpuAfter s.nextInput.op s))) := by
  obtain ⟨u, -, turn, e⟩ := step_split s noRst
  obtain ⟨rfl, -⟩ := turn.of_paused paused
  rw [e, portStep_write s _ off v good access]
  rfl

/-! ## Configuration writes (R316) -/

theorem configWrite_paused {pre : State} (r : ConfigReg) (written post : State) (paused : pre.regs.en = false) :
    configWrite r written pre post = written :=
  if_neg (ne_true_of_eq_false paused)

theorem configWrite_running {pre : State} (r : ConfigReg) (written post : State) (running : pre.regs.en = true) :
    configWrite r written pre post = post.raise (.configWhileRunning r) :=
  if_pos running

/-! ## TXF (R167, R168) -/

theorem writeReg_txf_below {pre : State} (w : Word32) (post : State) (room : pre.level < pre.params.fifoDepth) :
    writeReg .txf w pre post = post.pushFifo w :=
  if_pos room

theorem writeReg_txf_full {pre : State} (w : Word32) (post : State) (full : pre.level = pre.params.fifoDepth) :
    writeReg .txf w pre post = post.raise (.overflowWrite w) :=
  (if_neg full.not_lt).trans (if_pos full)

/-- Settles O30: below FIFO_DEPTH the write is a push onto what the engine's part leaves. -/
theorem txfWriteBelowDepthIsAccepted : Obligations.TxfWriteBelowDepthIsAccepted := by
  intro s w noRst access room
  obtain ⟨u, -, frame, e⟩ := step_of_write noRst (by decide) access
  rw [(regAt_eq_txf _).2 rfl, writeReg_txf_below (pre := s.begin) w _ room] at e
  exact ⟨_, e, congrArg (· ++ [w]) frame.fifo_eq_drop⟩

/-- Settles O31: at FIFO_DEPTH, judged on the pre-state, the write only records itself. -/
theorem txfWriteWhenFullIsDropped : Obligations.TxfWriteWhenFullIsDropped := by
  intro s w noRst access full
  obtain ⟨u, -, frame, e⟩ := step_of_write noRst (by decide) access
  rw [(regAt_eq_txf _).2 rfl, writeReg_txf_full (pre := s.begin) w _ full] at e
  exact ⟨_, e, frame.fifo_eq_drop, by simp⟩

/-! ## FSTAT (R169, R176) -/

/-- FSTAT[7:0] is LEVEL, as far as eight bits hold it. -/
theorem fstat_level {s : State} (fits : s.level ≤ 255) : (s.fstat.extractLsb' 0 8).toNat = s.level := by
  have low : s.fstat.extractLsb' 0 8 = BitVec.ofNat 8 s.level := BitVec.extractLsb'_append_eq_right
  rw [low, BitVec.toNat_ofNat, Nat.mod_eq_of_lt (by omega)]

/-- FSTAT[31:10] is 0. -/
theorem fstat_upper (s : State) : s.fstat.extractLsb' 10 22 = 0#22 := by
  simp (disch := decide) only [State.fstat, BitVec.extractLsb'_append_eq_of_le, BitVec.extractLsb'_eq_self,
    Nat.reduceSub]

/-- Settles O32: the value returned is FSTAT of the pre-state, read field by field. -/
theorem fstatReadReturnsTheOccupancy : Obligations.FstatReadReturnsTheOccupancy := by
  intro s noRst access fits
  obtain ⟨t, e, value, -, -⟩ := step_of_read noRst (by decide) access
  exact ⟨t, s.fstat, e, value, fstat_level fits, fstat_bit8 s, fstat_bit9 s, fstat_upper s⟩

/-! ## PROGCTRL (R175) -/

/-- The fields of PROGCTRL as read, from bit 0 up. -/
theorem readReg_progctrl_fields (s : State) :
    (readReg .progctrl s).extractLsb' 0 5 = s.regs.entry ∧ (readReg .progctrl s).extractLsb' 5 3 = 0#3 ∧
      (readReg .progctrl s).extractLsb' 8 5 = s.regs.wrapBottom ∧ (readReg .progctrl s).extractLsb' 13 3 = 0#3 ∧
      (readReg .progctrl s).extractLsb' 16 5 = s.regs.wrapTop ∧ (readReg .progctrl s).extractLsb' 21 11 = 0#11 := by
  simp (disch := decide) only [readReg, BitVec.extractLsb'_append_eq_of_le, BitVec.extractLsb'_append_eq_of_add_le,
    BitVec.extractLsb'_eq_self, Nat.reduceSub, and_self]

/-- Settles O36: a read returns the fields at their places; with EN = 0 the write is `setProgctrl` on the pre-state; with
EN = 1 it is the fault, on what the engine's own turn answers. -/
theorem progctrlReadsAndWrites : Obligations.ProgctrlReadsAndWrites := by
  intro s noRst
  have at8 : regAt 0x008#12 = .progctrl := (regAt_eq_progctrl _).2 rfl
  refine ⟨fun access => ?_, fun v access paused => ?_, fun v access running => ?_⟩
  · obtain ⟨t, e, value, regs, -⟩ := step_of_read noRst (by decide) access
    rw [at8] at value
    obtain ⟨entry, gap1, bottom, gap2, top, upper⟩ := readReg_progctrl_fields s
    exact ⟨t, readReg .progctrl s, e, value, entry, gap1, bottom, gap2, top, upper, regs⟩
  · have e := step_of_write_paused noRst (by decide) access paused
    rw [at8, writeReg, configWrite_paused (pre := s.begin) _ _ _ paused] at e
    exact ⟨_, e, rfl, rfl, rfl, rfl⟩
  · obtain ⟨u, turn, frame, e⟩ := step_of_write noRst (by decide) access
    rw [at8, writeReg, configWrite_running (pre := s.begin) _ _ _ running] at e
    exact ⟨_, u, e, turn, frame.regs, rfl, by simp⟩

/-! ## IMEM_k (R177) -/

/-- Settles O37: with EN = 0 the write is one of the instruction memory, whose read laws give the words; with EN = 1 it is
the fault. -/
theorem imemReadsAndWrites : Obligations.ImemReadsAndWrites := by
  intro s k noRst
  obtain ⟨atK, good⟩ := regAt_imem k
  refine ⟨fun access => ?_, fun v access paused => ?_, fun v access running => ?_⟩
  · obtain ⟨t, e, value, -, imem⟩ := step_of_read noRst good access
    rw [atK] at value
    exact ⟨t, e, value, imem⟩
  · have e := step_of_write_paused noRst good access paused
    rw [atK, writeReg, configWrite_paused (pre := s.begin) _ _ _ paused] at e
    exact ⟨_, e, Memory.read_write_same _ _ _, fun a other => Memory.read_write_other _ _ other, rfl, rfl⟩
  · obtain ⟨u, -, frame, e⟩ := step_of_write noRst good access
    rw [atK, writeReg, configWrite_running (pre := s.begin) _ _ _ running] at e
    exact ⟨_, e, frame.imem, by simp⟩

end Sys2Proof.Machine

/-! The statements of spec/45_clock_divider.md: a cycle of the divider (R202), and CalcDivisor's result (R209) and errors
(R210). -/

namespace Sys2Proof.Machine

/-! ## What `DividerStep` answers, an equation per case (R202) -/

theorem dividerStep_paused {s : State} (paused : s.regs.en = false) : dividerStep s = .paused :=
  if_neg (ne_true_of_eq_false paused)

theorem dividerStep_badDivisor {s : State} (running : s.regs.en = true) (zero : s.regs.divInt = 0#16) :
    dividerStep s = .badDivisor :=
  (if_pos running).trans (if_pos zero)

theorem dividerStep_tick {s : State} (running : s.regs.en = true) (legal : s.regs.divInt ≠ 0#16)
    (due : s.regs.dq.setWidth 25 ≤ s.divAcc + 256#25) :
    dividerStep s = .tick (s.divAcc + 256#25 - s.regs.dq.setWidth 25) :=
  (if_pos running).trans ((if_neg legal).trans (if_pos due))

theorem dividerStep_noTick {s : State} (running : s.regs.en = true) (legal : s.regs.divInt ≠ 0#16)
    (early : ¬ s.regs.dq.setWidth 25 ≤ s.divAcc + 256#25) :
    dividerStep s = .noTick (s.divAcc + 256#25) :=
  (if_pos running).trans ((if_neg legal).trans (if_neg early))

/-- What a tick leaves in DIV_ACC, as a difference of natural numbers. -/
theorem sum_sub_dq_toNat {r : Regs} {a : BitVec 25} (range : a.toNat < 2 ^ 24)
    (due : r.dq.setWidth 25 ≤ a + 256#25) :
    (a + 256#25 - r.dq.setWidth 25).toNat = a.toNat + 256 - (r.divInt.toNat * 256 + r.divFrac.toNat) := by
  rw [BitVec.toNat_sub_of_le due, divAcc_add_toNat a range, dq_setWidth_toNat, Regs.dq_toNat]

/-! ## What a cycle does with the divider's answer -/

/-- A cycle that is no tick is no engine cycle. -/
theorem Turn.eng_of_noTick {s u : State} (turn : Turn s u) (noTick : s.tickDue = false) : u.eng = s.eng := by
  cases turn with
  | idle _ _ => rfl
  | badDivisor _ _ _ => rfl
  | unwritten tick _ => simp [noTick] at tick
  | illegal _ tick _ => simp [noTick] at tick
  | issued _ _ tick _ _ => simp [noTick] at tick

/-- An illegal divisor is recorded. -/
theorem Turn.records_badDivisor {s u : State} (turn : Turn s u) (bad : dividerStep s = .badDivisor) :
    Refusal.badDivisor ∈ u.marks.refusals := by
  have noTick : s.tickDue = false := by simp [State.tickDue, bad]
  cases turn with
  | idle _ legal => exact absurd bad legal
  | badDivisor _ _ _ => simp
  | unwritten tick _ => simp [noTick] at tick
  | illegal _ tick _ => simp [noTick] at tick
  | issued _ _ tick _ _ => simp [noTick] at tick

/-- A step without `rst` leaves the divider's next DIV_ACC; the running engine moves in a tick only; an illegal divisor is
recorded. -/
theorem step_of_dividerStep {s : State} (noRst : s.nextInput.rst = false) :
    ∃ t, step s = .next t ∧ t.divAcc = s.nextDivAcc ∧
      (s.regs.en = true → s.tickDue = false → t.eng = s.eng) ∧
      (dividerStep s = .badDivisor → Refusal.badDivisor ∈ t.marks.refusals) := by
  obtain ⟨u, -, turn, e⟩ := step_split s noRst
  have port := portStep_frame s.nextInput.op s u
  refine ⟨_, e, port.divAcc.trans turn.frame.divAcc, fun running noTick => ?_, fun bad => ?_⟩
  · exact (port.engRun running).trans (turn.eng_of_noTick noTick)
  · exact port.refusals ▸ turn.records_badDivisor bad

/-- Settles O18: each case is one equation of `dividerStep`, whose answer the step carries out. -/
theorem dividerStepInEachCase : Obligations.DividerStepInEachCase := by
  intro s noRst range
  obtain ⟨t, e, acc, eng, refused⟩ := step_of_dividerStep noRst
  have compare := dq_le_sum_iff s.regs s.divAcc range
  refine ⟨fun paused => ?_, fun running zero => ?_, fun running legal due => ?_, fun running legal early => ?_⟩
  · have answer := dividerStep_paused paused
    obtain ⟨noTick, keeps⟩ : s.tickDue = false ∧ s.nextDivAcc = s.divAcc := by
      simp [State.tickDue, State.nextDivAcc, answer]
    exact ⟨noTick, t, e, acc.trans keeps⟩
  · have answer := dividerStep_badDivisor running zero
    obtain ⟨noTick, keeps⟩ : s.tickDue = false ∧ s.nextDivAcc = s.divAcc := by
      simp [State.tickDue, State.nextDivAcc, answer]
    exact ⟨noTick, t, e, acc.trans keeps, eng running noTick, refused answer⟩
  · have answer := dividerStep_tick running legal (compare.2 due)
    have left : s.nextDivAcc = s.divAcc + 256#25 - s.regs.dq.setWidth 25 := by simp [State.nextDivAcc, answer]
    exact ⟨(tickDue_iff s).2 ⟨_, answer⟩, t, e, by rw [acc, left, sum_sub_dq_toNat range (compare.2 due)]⟩
  · have answer := dividerStep_noTick running legal (mt compare.1 early.not_ge)
    obtain ⟨noTick, sum⟩ : s.tickDue = false ∧ s.nextDivAcc = s.divAcc + 256#25 := by
      simp [State.tickDue, State.nextDivAcc, answer]
    exact ⟨noTick, t, e, by rw [acc, sum, divAcc_add_toNat _ range], eng running noTick⟩

/-! ## CalcDivisor (R209, R210) -/

/-- What `CalcDivisor` can answer, with the condition of each answer. -/
theorem calcDivisor_cases (rate clk : Nat) :
    ((rate = 0 ∨ clk = 0) ∧ calcDivisor rate clk = .error .invalidInput) ∨
      (¬ (rate = 0 ∨ clk = 0) ∧ (calcDq rate clk < 256 ∨ 16777215 < calcDq rate clk) ∧
        calcDivisor rate clk = .error .outOfRange) ∨
      (¬ (rate = 0 ∨ clk = 0) ∧ ¬ (calcDq rate clk < 256 ∨ 16777215 < calcDq rate clk) ∧
        calcDivisor rate clk =
          .ok (BitVec.ofNat 16 (calcDq rate clk / 256), BitVec.ofNat 8 (calcDq rate clk % 256))) := by
  by_cases invalid : rate = 0 ∨ clk = 0
  · exact .inl ⟨invalid, if_pos invalid⟩
  · by_cases small : calcDq rate clk < 256
    · exact .inr (.inl ⟨invalid, .inl small, (if_neg invalid).trans (if_pos small)⟩)
    · by_cases large : 16777215 < calcDq rate clk
      · exact .inr (.inl ⟨invalid, .inr large, (if_neg invalid).trans ((if_neg small).trans (if_pos large))⟩)
      · exact .inr (.inr ⟨invalid, not_or.2 ⟨small, large⟩,
          (if_neg invalid).trans ((if_neg small).trans (if_neg large))⟩)

/-- A result is the scaled divisor cut into INT and FRAC, and loses none of it. -/
theorem dq_of_calcDivisor {rate clk : Nat} {d : BitVec 16 × BitVec 8} (ok : calcDivisor rate clk = .ok d) :
    d.1.toNat * 256 + d.2.toNat = calcDq rate clk := by
  rcases calcDivisor_cases rate clk with ⟨-, e⟩ | ⟨-, -, e⟩ | ⟨-, range, e⟩ <;> rw [e] at ok <;> cases ok
  simp only [BitVec.toNat_ofNat]
  omega

/-- R209: the rounded quotient of the model is the one with the tick rate 64 x `SAMPLE_RATE_HZ` in it. -/
theorem calcDq_eq_rounded (rate clk : Nat) :
    calcDq rate clk = (2 * clk * 256 + 64 * rate) / (2 * (64 * rate)) := by
  have scaled : (2 * clk * 256 + 64 * rate) / (2 * (64 * rate)) = 64 * (8 * clk + rate) / (64 * (2 * rate)) := by
    congr 1 <;> omega
  rw [scaled, Nat.mul_div_mul_left _ _ (by decide), calcDq]

/-- R209: the CLKDIV value holds the scaled divisor above a byte of zeros. -/
theorem clkdivWord_toNat (d : BitVec 16 × BitVec 8) :
    (clkdivWord d).toNat = (d.1.toNat * 256 + d.2.toNat) * 256 := by
  have shifted : (clkdivWord d).toNat = (d.1 ++ d.2 : BitVec 24).toNat <<< 8 ||| 0 :=
    BitVec.toNat_append (d.1 ++ d.2 : BitVec 24) 0#8
  rw [shifted, Nat.or_zero, Nat.shiftLeft_eq, append_byte_toNat]

/-- Settles O47: a result loses nothing of the rounded quotient, and CLKDIV holds it above a byte of zeros. -/
theorem calcDivisorRoundsToNearest : Obligations.CalcDivisorRoundsToNearest := by
  intro rate clk d ok
  exact ⟨(dq_of_calcDivisor ok).trans (calcDq_eq_rounded rate clk), clkdivWord_toNat d⟩

/-- Settles O48: the three answers exclude each other, and so do their conditions. -/
theorem calcDivisorErrorsInOrder : Obligations.CalcDivisorErrorsInOrder := by
  intro rate clk
  change _ ∧ (_ ↔ _ ∧ (calcDq rate clk < 256 ∨ 16777215 < calcDq rate clk))
  rcases calcDivisor_cases rate clk with ⟨invalid, e⟩ | ⟨valid, range, e⟩ | ⟨valid, range, e⟩ <;> rw [e]
  · simp [invalid]
  · simp [valid, range]
  · simp [valid, range]

end Sys2Proof.Machine

/-! The statements of spec/46_producer_bridge.md: a turn of the producer (R231, R232). -/

namespace Sys2Proof.Machine

/-! ## The producer's access and its next place, an equation per phase (R231) -/

theorem producerAccess_poll {s : State} (wave : s.params.waveOk = true) (poll : s.cpu.phase = .poll) :
    producerAccess s = .read 0x00C#12 32 := by
  simp [producerAccess, wave, poll]

theorem producerAccess_enqueue {s : State} (wave : s.params.waveOk = true) (enqueue : s.cpu.phase = .enqueue) :
    producerAccess s = .write 0x010#12 32 (producerWord s) := by
  simp [producerAccess, wave, enqueue]

/-- After a poll the producer stays when the FIFO is at FIFO_DEPTH, for FSTAT[8] is FULL. -/
theorem producerNext_poll {s : State} (wave : s.params.waveOk = true) (poll : s.cpu.phase = .poll) :
    producerNext s =
      { s.cpu with phase := if s.level = s.params.fifoDepth then .poll else .enqueue } := by
  simp only [producerNext, wave, poll, fstat_bit8, State.full, beq_iff_eq, if_true]
  split
  · rw [← poll]
  · rfl

theorem producerNext_enqueue {s : State} (wave : s.params.waveOk = true) (enqueue : s.cpu.phase = .enqueue) :
    producerNext s = { s.cpu with idx := (s.cpu.idx + 2) % s.params.wave.length, phase := .poll } := by
  simp [producerNext, wave, enqueue]

/-- R232: with a pair at idx the producer's word packs that pair. -/
theorem producerWord_of_pair {s : State} {l r : Int} (left : s.params.wave[s.cpu.idx]? = some l)
    (right : s.params.wave[s.cpu.idx + 1]? = some r) : producerWord s = pack l r := by
  simp [producerWord, List.getD_eq_getElem?_getD, left, right]

/-! ## The turn -/

/-- A step without `rst` leaves the host agents where their turn takes them. -/
theorem step_cpu {s : State} (noRst : s.nextInput.rst = false) :
    ∃ t, step s = .next t ∧ t.cpu = cpuAfter s.nextInput.op s := by
  obtain ⟨u, -, -, e⟩ := step_split s noRst
  exact ⟨_, e, (portStep_frame s.nextInput.op s u).cpu⟩

/-- A good TXF write is the access `txfWrite` reports. -/
theorem txfWrite_of_access {s : State} {w : Word32} (access : accessOf s.nextInput.op s = .write 0x010#12 32 w) :
    txfWrite s = some w := by
  have good : goodAccess 0x010#12 32 = true ∧ regAt 0x010#12 = .txf := by decide
  simp [txfWrite, access, good]

/-- Settles O51: a poll is a good read of FSTAT and an enqueue a good write of TXF; the step leaves the producer at its
next place. -/
theorem producerTurnFollowsTheIteration : Obligations.ProducerTurnFollowsTheIteration := by
  intro s l r turn wave left right
  have noRst : s.nextInput.rst = false := by rw [turn]
  have access : accessOf s.nextInput.op s = producerAccess s := by rw [turn, accessOf]
  have place : cpuAfter s.nextInput.op s = producerNext s := by rw [turn, cpuAfter]
  obtain ⟨t, e, cpu⟩ := step_cpu noRst
  rw [place] at cpu
  refine ⟨fun poll => ?_, fun enqueue => ⟨?_, t, e, cpu.trans (producerNext_enqueue wave enqueue)⟩⟩
  · obtain ⟨t', e', value, -, -⟩ := step_of_read noRst (by decide) (access.trans (producerAccess_poll wave poll))
    obtain rfl : t = t' := by simpa [e] using e'
    exact ⟨t, e, value, cpu.trans (producerNext_poll wave poll)⟩
  · rw [txfWrite_of_access (access.trans (producerAccess_enqueue wave enqueue)), producerWord_of_pair left right]

end Sys2Proof.Machine

/-! The statements of spec/70_reset_and_hazards.md: a cycle with `rst` (R310). -/

namespace Sys2Proof.Machine

/-- R310: with `rst` asserted neither the engine nor the port takes part in the step. -/
theorem step_of_rst {s : State} (rst : s.nextInput.rst = true) : step s = .next s.afterRst := by
  rcases step_cases s with ⟨-, e⟩ | ⟨noRst, -⟩
  · exact e
  · simp [rst] at noRst

/-- R311: after a cycle with `rst` no IMEM word is written. -/
theorem afterRst_imem_read (s : State) (a : Nat) : s.afterRst.imem.read a = none := rfl

/-- Settles O23: the step answers `afterRst`, whose fields are the values of R311. -/
theorem rstOverridesTheCycle : Obligations.RstOverridesTheCycle := by
  intro s rst
  exact ⟨s.afterRst, step_of_rst rst, rfl, rfl, rfl, rfl, rfl, rfl, afterRst_imem_read s, rfl, rfl,
    rfl, rfl, rfl, rfl, rfl, rfl, rfl, rfl, rfl, rfl, rfl⟩

end Sys2Proof.Machine

/-! The statements of spec/30_encoding.md: the decoder against the encoder (R94 to R98), against the mask-and-match
tests (R96), on the spec's own words, and the disassembler (R106). -/

namespace Sys2Proof

/-! ## The fields of an assembled word (R91) -/

@[simp] theorem fieldArg_assembleFields (opc : BitVec 3) (ss : SideSet) (dly sel : BitVec 3) (arg : BitVec 5) :
    fieldArg (assembleFields opc ss dly sel arg) = arg := by
  simp (disch := decide) only [fieldArg, assembleFields, BitVec.extractLsb'_append_eq_right]

@[simp] theorem fieldSel_assembleFields (opc : BitVec 3) (ss : SideSet) (dly sel : BitVec 3) (arg : BitVec 5) :
    fieldSel (assembleFields opc ss dly sel arg) = sel := by
  simp (disch := decide) only [fieldSel, assembleFields, BitVec.extractLsb'_append_eq_of_le,
    BitVec.extractLsb'_append_eq_right, Nat.reduceSub]

@[simp] theorem fieldDly_assembleFields (opc : BitVec 3) (ss : SideSet) (dly sel : BitVec 3) (arg : BitVec 5) :
    fieldDly (assembleFields opc ss dly sel arg) = dly := by
  simp (disch := decide) only [fieldDly, assembleFields, BitVec.extractLsb'_append_eq_of_le,
    BitVec.extractLsb'_append_eq_right, Nat.reduceSub]

@[simp] theorem fieldSs_assembleFields (opc : BitVec 3) (ss : SideSet) (dly sel : BitVec 3) (arg : BitVec 5) :
    fieldSs (assembleFields opc ss dly sel arg) = ss := by
  simp (disch := decide) only [fieldSs, assembleFields, BitVec.extractLsb'_append_eq_of_le,
    BitVec.extractLsb'_append_eq_right, Nat.reduceSub]

@[simp] theorem fieldOpc_assembleFields (opc : BitVec 3) (ss : SideSet) (dly sel : BitVec 3) (arg : BitVec 5) :
    fieldOpc (assembleFields opc ss dly sel arg) = opc := by
  simp (disch := decide) only [fieldOpc, assembleFields, BitVec.extractLsb'_append_eq_of_le,
    BitVec.extractLsb'_eq_self, Nat.reduceSub]

/-- Words are equal when their five fields are. -/
theorem word_eq_iff_fields (v w : Word16) :
    v = w ↔ fieldOpc v = fieldOpc w ∧ fieldSs v = fieldSs w ∧ fieldDly v = fieldDly w ∧ fieldSel v = fieldSel w ∧
      fieldArg v = fieldArg w := by
  constructor
  · rintro rfl
    simp
  · rintro ⟨opc, ss, dly, sel, arg⟩
    rw [← assembleFields_fields v, opc, ss, dly, sel, arg, assembleFields_fields]

/-! ## Decoding and encoding (R94, R95, R97) -/

theorem decode_encode (i : Instr) : decode (encode i) = some i := by
  cases i with
  | outPins1 ss => simp [decode, encode]
  | jmpXDec ss addr => simp [decode, encode]
  | setX ss imm => simp [decode, encode]

/-- What `decode` can answer, with the fields of the word in each case. -/
theorem decode_cases (w : Word16) :
    (fieldDly w = 0#3 ∧ fieldOpc w = 0b011#3 ∧ fieldSel w = 0#3 ∧ fieldArg w = 1#5 ∧
        decode w = some (.outPins1 (fieldSs w))) ∨
      (fieldDly w = 0#3 ∧ fieldOpc w = 0b000#3 ∧ fieldSel w = 0b010#3 ∧
        decode w = some (.jmpXDec (fieldSs w) (fieldArg w))) ∨
      (fieldDly w = 0#3 ∧ fieldOpc w = 0b111#3 ∧ fieldSel w = 0b001#3 ∧
        decode w = some (.setX (fieldSs w) (fieldArg w))) ∨
      decode w = none := by
  unfold decode
  split
  next dly =>
    split
    next out =>
      obtain ⟨opc, sel, arg⟩ := out
      exact .inl ⟨dly, opc, sel, arg, rfl⟩
    next =>
      split
      next jmp => exact .inr (.inl ⟨dly, jmp.1, jmp.2, rfl⟩)
      next =>
        split
        next set => exact .inr (.inr (.inl ⟨dly, set.1, set.2, rfl⟩))
        next => exact .inr (.inr (.inr rfl))
  next => exact .inr (.inr (.inr rfl))

theorem encode_of_decode {w : Word16} {i : Instr} (h : decode w = some i) : encode i = w := by
  rcases decode_cases w with ⟨dly, opc, sel, arg, e⟩ | ⟨dly, opc, sel, e⟩ | ⟨dly, opc, sel, e⟩ | e <;>
    rw [e] at h <;> cases h <;> rw [word_eq_iff_fields]
  · simp [encode, dly, opc, sel, arg]
  · simp [encode, dly, opc, sel]
  · simp [encode, dly, opc, sel]

/-- Settles O2: an encoded instruction decodes to itself, and a decoded word has the fields the encoder puts there. -/
theorem decodeAndEncodeAgree : Obligations.DecodeAndEncodeAgree := by
  intro w i
  exact ⟨encode_of_decode, fun e => e ▸ decode_encode i⟩

/-! ## The mask-and-match tests (R96) -/

/-- A mask-and-match test is one of each field. -/
theorem and_eq_iff_fields (w mask pattern : Word16) :
    w &&& mask = pattern ↔
      fieldOpc w &&& fieldOpc mask = fieldOpc pattern ∧ fieldSs w &&& fieldSs mask = fieldSs pattern ∧
      fieldDly w &&& fieldDly mask = fieldDly pattern ∧ fieldSel w &&& fieldSel mask = fieldSel pattern ∧
      fieldArg w &&& fieldArg mask = fieldArg pattern := by
  rw [word_eq_iff_fields]
  simp only [fieldOpc, fieldSs, fieldDly, fieldSel, fieldArg, BitVec.extractLsb'_and]

/-- The mask 0xE7FF covers every field but SS. -/
theorem and_outMask_eq_iff (w : Word16) :
    w &&& 0xE7FF#16 = 0x6001#16 ↔
      fieldOpc w = 0b011#3 ∧ fieldDly w = 0#3 ∧ fieldSel w = 0#3 ∧ fieldArg w = 1#5 := by
  have mask : fieldOpc 0xE7FF#16 = BitVec.allOnes 3 ∧ fieldSs 0xE7FF#16 = 0#2 ∧ fieldDly 0xE7FF#16 = BitVec.allOnes 3 ∧
      fieldSel 0xE7FF#16 = BitVec.allOnes 3 ∧ fieldArg 0xE7FF#16 = BitVec.allOnes 5 := by decide
  have pattern : fieldOpc 0x6001#16 = 3#3 ∧ fieldSs 0x6001#16 = 0#2 ∧ fieldDly 0x6001#16 = 0#3 ∧
      fieldSel 0x6001#16 = 0#3 ∧ fieldArg 0x6001#16 = 1#5 := by decide
  simp only [and_eq_iff_fields, mask, pattern, BitVec.and_allOnes, BitVec.and_zero, true_and]

/-- The mask 0xE7E0 covers OPC, DLY and SEL: a pattern with the other fields 0 tests those three. -/
theorem and_jmpSetMask_eq_iff (w pattern : Word16) (ss : fieldSs pattern = 0#2) (arg : fieldArg pattern = 0#5) :
    w &&& 0xE7E0#16 = pattern ↔
      fieldOpc w = fieldOpc pattern ∧ fieldDly w = fieldDly pattern ∧ fieldSel w = fieldSel pattern := by
  have mask : fieldOpc 0xE7E0#16 = BitVec.allOnes 3 ∧ fieldSs 0xE7E0#16 = 0#2 ∧ fieldDly 0xE7E0#16 = BitVec.allOnes 3 ∧
      fieldSel 0xE7E0#16 = BitVec.allOnes 3 ∧ fieldArg 0xE7E0#16 = 0#5 := by decide
  simp only [and_eq_iff_fields, mask, ss, arg, BitVec.and_allOnes, BitVec.and_zero, true_and, and_true]

/-- A word is admitted when its fields are those of one of the three forms. -/
theorem admitted_iff_fields (w : Word16) :
    admitted w = true ↔ fieldDly w = 0#3 ∧
      ((fieldOpc w = 0b011#3 ∧ fieldSel w = 0#3 ∧ fieldArg w = 1#5) ∨
        (fieldOpc w = 0b000#3 ∧ fieldSel w = 0b010#3) ∨ (fieldOpc w = 0b111#3 ∧ fieldSel w = 0b001#3)) := by
  have jmp : fieldOpc 0x0040#16 = 0#3 ∧ fieldDly 0x0040#16 = 0#3 ∧ fieldSel 0x0040#16 = 2#3 := by decide
  have set : fieldOpc 0xE020#16 = 7#3 ∧ fieldDly 0xE020#16 = 0#3 ∧ fieldSel 0xE020#16 = 1#3 := by decide
  simp only [admitted, Bool.or_eq_true, beq_iff_eq, and_outMask_eq_iff,
    and_jmpSetMask_eq_iff w 0x0040#16 (by decide) (by decide),
    and_jmpSetMask_eq_iff w 0xE020#16 (by decide) (by decide), jmp, set]
  tauto

/-- R99: the decoder answers nothing for a word that is not admitted. -/
theorem decode_eq_none_iff (w : Word16) : decode w = none ↔ admitted w = false := by
  rw [← Bool.not_eq_true, admitted_iff_fields]
  constructor
  · rintro illegal ⟨dly, out | jmp | set⟩
    · simp [decode, dly, out] at illegal
    · simp [decode, dly, jmp] at illegal
    · simp [decode, dly, set] at illegal
  · intro notAdmitted
    rcases decode_cases w with ⟨dly, opc, sel, arg, -⟩ | ⟨dly, opc, sel, -⟩ | ⟨dly, opc, sel, -⟩ | e
    · exact absurd ⟨dly, .inl ⟨opc, sel, arg⟩⟩ notAdmitted
    · exact absurd ⟨dly, .inr (.inl ⟨opc, sel⟩)⟩ notAdmitted
    · exact absurd ⟨dly, .inr (.inr ⟨opc, sel⟩)⟩ notAdmitted
    · exact e

/-- Settles O3: the decoder answers nothing exactly for the words that are not admitted. -/
theorem admittedWordsAreTheDecodedOnes : Obligations.AdmittedWordsAreTheDecodedOnes := by
  intro w
  rw [← Option.ne_none_iff_exists', ne_eq, decode_eq_none_iff, Bool.not_eq_false]

/-! ## The spec's words -/

/-- Settles O1: eighteen words, each decoded. -/
theorem specWordsDecode : Obligations.SpecWordsDecode := by
  unfold Obligations.SpecWordsDecode
  decide

/-- Settles O4: four words, each printed. -/
theorem disassemblerPrintsTheExamples : Obligations.DisassemblerPrintsTheExamples := by
  unfold Obligations.DisassemblerPrintsTheExamples
  decide

end Sys2Proof

/-! The statements of spec/40_engine_instructions.md about every instruction: SIDE_OUT (R123), the order in which a
word's bits leave (R126), the frame (R129), and that each answers a next state (R120). -/

namespace Sys2Proof.Machine

/-! ## What an instruction can answer -/

/-- The answers of `exec`, one for each way an instruction ends (R125, R127, R128). -/
inductive Issued (s : State) : Instr → State → Prop where
  | shift (ss : SideSet) (loaded : s.eng.osrCount ≠ 32#6) :
      Issued s (.outPins1 ss) (((s.issue ss).shiftOut s.eng.osr s.eng.osrCount).goto s.nextPc)
  | pull (ss : SideSet) (v : Word32) (rest : List Word32) (spent : s.eng.osrCount = 32#6) (head : s.fifo = v :: rest) :
      Issued s (.outPins1 ss) (((s.issue ss).popFifo.shiftOut v 0#6).goto s.nextPc)
  | stall (ss : SideSet) (spent : s.eng.osrCount = 32#6) (empty : s.fifo = []) :
      Issued s (.outPins1 ss) (s.issue ss).noteUnderrun
  | jump (ss : SideSet) (addr : ImemAddr) (written : s.eng.xWritten = true) :
      Issued s (.jmpXDec ss addr)
        (((s.issue ss).writeX (s.eng.x - 1#32)).goto (if s.eng.x = 0#32 then s.nextPc else addr))
  | unwrittenX (ss : SideSet) (addr : ImemAddr) (unwritten : s.eng.xWritten = false) :
      Issued s (.jmpXDec ss addr) (s.raise (.xUnwritten s.eng.pc))
  | set (ss : SideSet) (imm : BitVec 5) :
      Issued s (.setX ss imm) (((s.issue ss).writeX (setOperand imm)).goto s.nextPc)

/-- Every instruction answers a next state, and it is one of those of `Issued`. -/
theorem exec_cases (i : Instr) (s : State) : ∃ t, exec i s = .next t ∧ Issued s i t := by
  cases i with
  | outPins1 ss =>
    by_cases spent : s.eng.osrCount = 32#6
    · cases head : s.fifo with
      | nil => exact ⟨_, exec_outPins1_stall ss spent head, .stall ss spent head⟩
      | cons v rest => exact ⟨_, exec_outPins1_pull ss spent head, .pull ss v rest spent head⟩
    · exact ⟨_, exec_outPins1_shift ss spent, .shift ss spent⟩
  | jmpXDec ss addr =>
    cases written : s.eng.xWritten with
    | false => exact ⟨_, exec_jmpXDec_unwritten ss addr written, .unwrittenX ss addr written⟩
    | true => exact ⟨_, exec_jmpXDec_written ss addr written, .jump ss addr written⟩
  | setX ss imm => exact ⟨_, exec_setX ss imm s, .set ss imm⟩

theorem issued_of_exec {i : Instr} {s t : State} (h : exec i s = .next t) : Issued s i t := by
  obtain ⟨t', e, issued⟩ := exec_cases i s
  obtain rfl : t = t' := by simpa [h] using e
  exact issued

/-! ## What an instruction leaves alone (R129) -/

/-- What no instruction touches. -/
structure IssuedFrame (s t : State) : Prop where
  params   : t.params = s.params
  imem     : t.imem = s.imem
  regs     : t.regs = s.regs
  divAcc   : t.divAcc = s.divAcc
  cpu      : t.cpu = s.cpu
  inputs   : t.inputs = s.inputs
  rdata    : t.rdata = s.rdata
  refusals : t.marks.refusals = s.marks.refusals

theorem Issued.frame {s t : State} {i : Instr} (h : Issued s i t) : IssuedFrame s t := by
  cases h <;> constructor <;> rfl

/-- An autopull takes the head of the FIFO; nothing else takes from it. -/
theorem Issued.fifo_popped {s t : State} {i : Instr} (h : Issued s i t) :
    ∃ popped, popped.length ≤ 1 ∧ popped ++ t.fifo = s.fifo := by
  cases h with
  | pull ss v rest spent head => exact ⟨[v], by simp, by simp [head]⟩
  | shift | stall | jump | unwrittenX | set => exact ⟨[], by simp, rfl⟩

theorem Issued.keeps_of_notOut {s t : State} {i : Instr} (h : Issued s i t) (notOut : ∀ ss, i ≠ .outPins1 ss) :
    t.fifo = s.fifo ∧ t.eng.sdOut = s.eng.sdOut ∧ t.eng.osr = s.eng.osr ∧ t.eng.osrCount = s.eng.osrCount ∧
      t.marks.underrunSeen = s.marks.underrunSeen := by
  cases h with
  | shift ss | pull ss | stall ss => exact absurd rfl (notOut ss)
  | jump | unwrittenX | set => exact ⟨rfl, rfl, rfl, rfl, rfl⟩

theorem Issued.keeps_of_out {s t : State} {ss : SideSet} (h : Issued s (.outPins1 ss) t) :
    t.eng.x = s.eng.x ∧ t.eng.xWritten = s.eng.xWritten ∧ t.marks.faults = s.marks.faults := by
  cases h with
  | shift | pull | stall => exact ⟨rfl, rfl, rfl⟩

/-- Settles O11: the frame of `Issued`, part by part. -/
theorem instructionFrame : Obligations.InstructionFrame := by
  intro i s t h
  have issued := issued_of_exec h
  have frame := issued.frame
  refine ⟨fun a => by rw [frame.imem], frame.imem, frame.regs, frame.params, frame.divAcc, frame.cpu, frame.inputs,
    frame.rdata, issued.fifo_popped, issued.keeps_of_notOut, ?_, frame.refusals⟩
  rintro ⟨ss, rfl⟩
  exact issued.keeps_of_out

/-! ## SIDE_OUT (R123) -/

/-- SIDE_OUT is driven by all but a `JMP X--` with X unwritten, which leaves the engine alone (R120). -/
theorem Issued.sideOut {s t : State} {i : Instr} (h : Issued s i t) :
    t.eng.sideOut = i.side ∨ (t.eng = s.eng ∧ s.eng.xWritten = false ∧ ∃ ss addr, i = .jmpXDec ss addr) := by
  cases h with
  | shift | pull | stall | jump | set => exact .inl rfl
  | unwrittenX ss addr unwritten => exact .inr ⟨rfl, unwritten, ss, addr, rfl⟩

/-- Settles O10: the one exception is ruled out by the premise. -/
theorem issuedInstructionWritesSideOut : Obligations.IssuedInstructionWritesSideOut := by
  intro i s written
  obtain ⟨t, e, issued⟩ := exec_cases i s
  refine ⟨t, e, ?_⟩
  rcases issued.sideOut with side | ⟨-, unwritten, ss, addr, rfl⟩
  · exact side
  · simp [written ss addr rfl] at unwritten

/-! ## No instruction and no cycle ends a run (R12, R282, R283) -/

/-- Settles O12: an instruction by its cases; a cycle is a reset or the parts of R45, each of which answers a state. -/
theorem everyStepAnswersANextState : Obligations.EveryStepAnswersANextState := by
  refine ⟨exec_answers_next, fun s => ?_⟩
  cases rst : s.nextInput.rst with
  | true => exact ⟨_, step_of_rst rst⟩
  | false =>
    obtain ⟨u, -, -, e⟩ := step_split s rst
    exact ⟨_, e⟩

/-! ## The order in which a word's bits leave (R63, R126) -/

/-- `k` bits of `v` have been shifted out since it was pulled, and the FIFO holds what stood behind it. -/
structure ShiftedOut (v : Word32) (rest : List Word32) (k : Nat) (s : State) : Prop where
  count : s.eng.osrCount.toNat = k
  osr   : s.eng.osr = v <<< k
  line  : s.eng.sdOut = v.getLsbD (32 - k)
  fifo  : s.fifo = rest

/-- The bit next to leave is the top bit of what is left of the word. -/
theorem msb_shiftLeft (v : Word32) {k : Nat} (hk : k < 32) : (v <<< k).msb = v.getLsbD (32 - (k + 1)) := by
  rw [BitVec.msb_eq_getLsbD_last, BitVec.getLsbD_shiftLeft]
  have inside : ¬ 31 < k := by omega
  simp [inside]

/-- The OUT that pulls `v` sends its top bit. -/
theorem Issued.shiftedOut_of_pull {s t : State} {ss : SideSet} {v : Word32} {rest : List Word32}
    (h : Issued s (.outPins1 ss) t) (spent : s.eng.osrCount = 32#6) (head : s.fifo = v :: rest) :
    ShiftedOut v rest 1 t := by
  cases h with
  | shift _ loaded => exact absurd spent loaded
  | stall _ _ empty => simp [head] at empty
  | pull _ w tail _ head' =>
    obtain ⟨rfl, rfl⟩ : v = w ∧ rest = tail := by simpa [head] using head'
    exact ⟨rfl, rfl, by simpa using msb_shiftLeft v (k := 0) (by decide), by simp [head]⟩

/-- Each further OUT sends the next bit. -/
theorem Issued.shiftedOut_of_out {s t : State} {ss : SideSet} {v : Word32} {rest : List Word32} {k : Nat}
    (h : Issued s (.outPins1 ss) t) (left : k < 32) (shifted : ShiftedOut v rest k s) :
    ShiftedOut v rest (k + 1) t := by
  have loaded : s.eng.osrCount ≠ 32#6 := by
    intro spent
    have count := shifted.count
    rw [spent] at count
    exact absurd count.symm left.ne
  cases h with
  | pull _ _ _ spent _ => exact absurd spent loaded
  | stall _ spent _ => exact absurd spent loaded
  | shift _ _ =>
    refine ⟨?_, ?_, ?_, shifted.fifo⟩
    · have count := shifted.count
      simp
      omega
    · simp [shifted.osr, BitVec.shiftLeft_add]
    · simp [shifted.osr, msb_shiftLeft v left]

/-- The other instructions leave the word where it is. -/
theorem Issued.shiftedOut_of_notOut {s t : State} {i : Instr} {v : Word32} {rest : List Word32} {k : Nat}
    (h : Issued s i t) (notOut : ∀ ss, i ≠ .outPins1 ss) (shifted : ShiftedOut v rest k s) : ShiftedOut v rest k t := by
  obtain ⟨fifo, line, osr, count, -⟩ := h.keeps_of_notOut notOut
  exact ⟨count ▸ shifted.count, osr ▸ shifted.osr, line ▸ shifted.line, fifo ▸ shifted.fifo⟩

/-- An instruction is an OUT, or `isOut` is false of it. -/
theorem isOut_cases (i : Instr) : (∃ ss, i = .outPins1 ss) ∨ (isOut i = false ∧ ∀ ss, i ≠ .outPins1 ss) := by
  cases i with
  | outPins1 ss => exact .inl ⟨ss, rfl⟩
  | jmpXDec | setX => exact .inr ⟨rfl, fun _ => Instr.noConfusion⟩

/-- Once a word is pulled, each OUT of a run sends one more bit of it while there are any. -/
theorem ExecRun.shiftedOut {is : List Instr} {s t : State} (run : ExecRun is s t) {v : Word32} {rest : List Word32}
    {k : Nat} (shifted : ShiftedOut v rest k s) (fits : k + is.countP isOut ≤ 32) :
    ShiftedOut v rest (k + is.countP isOut) t := by
  induction run generalizing k with
  | done s => exact shifted
  | issue i is s t u first _ ih =>
    have issued := issued_of_exec first
    rcases isOut_cases i with ⟨ss, rfl⟩ | ⟨other, notOut⟩
    · rw [List.countP_cons_of_pos rfl] at fits ⊢
      rw [show k + (is.countP isOut + 1) = k + 1 + is.countP isOut by omega]
      exact ih (issued.shiftedOut_of_out (by omega) shifted) (by omega)
    · rw [List.countP_cons_of_neg (by simp [other])] at fits ⊢
      exact ih (issued.shiftedOut_of_notOut notOut shifted) fits

/-- From an empty OSR the first OUT of a run pulls the word at the FIFO's head. -/
theorem ExecRun.shiftedOut_of_spent {is : List Instr} {s t : State} (run : ExecRun is s t) {v : Word32}
    {rest : List Word32} (spent : s.eng.osrCount = 32#6) (head : s.fifo = v :: rest) (someOut : 1 ≤ is.countP isOut)
    (fits : is.countP isOut ≤ 32) : ShiftedOut v rest (is.countP isOut) t := by
  induction run with
  | done s => simp at someOut
  | issue i is s t u first run ih =>
    have issued := issued_of_exec first
    rcases isOut_cases i with ⟨ss, rfl⟩ | ⟨other, notOut⟩
    · rw [List.countP_cons_of_pos rfl, Nat.add_comm] at fits ⊢
      exact run.shiftedOut (issued.shiftedOut_of_pull spent head) fits
    · rw [List.countP_cons_of_neg (by simp [other])] at someOut fits ⊢
      obtain ⟨fifo, -, -, count, -⟩ := issued.keeps_of_notOut notOut
      exact ih (count.trans spent) (fifo.trans head) someOut fits

/-- Settles O7: after `n` OUTs the word has lost `n` bits, the last of them on the line. -/
theorem wordLeavesMsbFirst : Obligations.WordLeavesMsbFirst := by
  rintro is s t v rest _ spent head run rfl someOut fits
  have shifted := run.shiftedOut_of_spent spent head someOut fits
  exact ⟨shifted.line, shifted.count, shifted.fifo⟩

end Sys2Proof.Machine

/-! The statements of spec/10_state.md, spec/40_engine_instructions.md, spec/44_fifo_and_packer.md and
spec/60_exceptions.md about one system cycle: what is issued in it (R45, R120), what it changes and what it keeps (R21
to R26, R41, R121, R171, R315, R316). -/

namespace Sys2Proof.Machine

/-! ## The fetch (R62, R99, R120) -/

theorem fetch_of_unwritten {s : State} (unwritten : s.imem.read s.eng.pc.toNat = none) : s.fetch = .unwritten := by
  simp [State.fetch, unwritten]

theorem fetch_of_decode {s : State} {w : Word16} {i : Instr} (word : s.imem.read s.eng.pc.toNat = some w)
    (decoded : decode w = some i) : s.fetch = .instr i := by
  simp [State.fetch, word, decoded]

theorem fetch_of_notAdmitted {s : State} {w : Word16} (word : s.imem.read s.eng.pc.toNat = some w)
    (illegal : admitted w = false) : s.fetch = .illegal w := by
  simp [State.fetch, word, (decode_eq_none_iff w).2 illegal]

/-! ## A tick is one engine cycle (R45, R120) -/

theorem step_of_tick {s : State} (noRst : s.nextInput.rst = false) (tick : s.tickDue = true) :
    step s = thenPort s.nextInput.op s.begin (engineCycle (s.begin.setDivAcc s.nextDivAcc)) := by
  have due : dividerStep s.begin = .tick s.nextDivAcc := (dividerStep_of_tickDue s tick).1
  simp [step, systemCycle, noRst, dividerTurn, due]

theorem engineCycle_of_unwritten {s : State} (fetched : s.fetch = .unwritten) :
    engineCycle s = .next (s.raise (.imemUnwritten s.eng.pc)) := by
  simp [engineCycle, fetched]

theorem engineCycle_of_illegal {s : State} {w : Word16} (fetched : s.fetch = .illegal w) :
    engineCycle s = .next (s.refuse (.illegalEncoding s.eng.pc w)) := by
  simp [engineCycle, fetched]

theorem engineCycle_of_instr {s : State} {i : Instr} (fetched : s.fetch = .instr i) : engineCycle s = exec i s := by
  simp [engineCycle, fetched]

/-- Settles O13: a tick is an engine cycle, and the word fetched decodes to the instruction. -/
theorem stepRunsTheDecodedInstruction : Obligations.StepRunsTheDecodedInstruction := by
  intro s w i noRst tick word decoded
  have fetched : (s.begin.setDivAcc s.nextDivAcc).fetch = .instr i := fetch_of_decode word decoded
  rw [step_of_tick noRst tick, engineCycle_of_instr fetched]

/-- What a tick keeps of the engine cycle `u` in it: the block runs, so the access reaches the engine's registers and
IMEM in no case, adds the word accepted to the FIFO, and only adds to the faults. -/
theorem step_of_engineCycle {s u : State} (noRst : s.nextInput.rst = false) (tick : s.tickDue = true)
    (answer : engineCycle (s.begin.setDivAcc s.nextDivAcc) = .next u) :
    ∃ t, step s = .next t ∧ t.eng = u.eng ∧ t.imem = u.imem ∧ t.fifo = u.fifo ++ (acceptedWord s).toList ∧
      (∀ f ∈ u.marks.faults, f ∈ t.marks.faults) ∧ t.marks.refusals = u.marks.refusals ∧
      t.marks.underrunSeen = u.marks.underrunSeen := by
  have running : s.regs.en = true := (dividerStep_of_tickDue s tick).2
  have port := portStep_frame s.nextInput.op s u
  refine ⟨portStep s.nextInput.op s.begin u, ?_, port.engRun running, (port.config running).1, portStep_fifo s u,
    port.faults, port.refusals, port.underrun⟩
  rw [step_of_tick noRst tick, answer, thenPort]

/-- Settles O15: the engine cycle is the fault alone. -/
theorem unwrittenFetchRecordsTheFault : Obligations.UnwrittenFetchRecordsTheFault := by
  intro s noRst tick unwritten
  obtain ⟨t, e, eng, imem, fifo, faults, -, -⟩ := step_of_engineCycle noRst tick
    (engineCycle_of_unwritten (s := s.begin.setDivAcc s.nextDivAcc) (fetch_of_unwritten unwritten))
  exact ⟨t, e, faults _ (by simp), eng, imem, fifo⟩

/-- Settles O16: the engine cycle is the refusal alone. -/
theorem illegalWordRecordsTheRefusal : Obligations.IllegalWordRecordsTheRefusal := by
  intro s w noRst tick word illegal
  obtain ⟨t, e, eng, -, fifo, -, refusals, -⟩ := step_of_engineCycle noRst tick
    (engineCycle_of_illegal (s := s.begin.setDivAcc s.nextDivAcc) (fetch_of_notAdmitted word illegal))
  have recorded : Refusal.illegalEncoding s.eng.pc w ∈ t.marks.refusals := by simp [refusals]
  exact ⟨t, e, recorded, by simpa [Marks.refused] using List.ne_nil_of_mem recorded, eng, fifo⟩

/-- Settles O22: the engine cycle is the stall, whatever word comes in at the port. -/
theorem emptyFifoStallsTheOut : Obligations.EmptyFifoStallsTheOut := by
  intro s ss noRst tick fetched spent empty
  have stalls : engineCycle (s.begin.setDivAcc s.nextDivAcc) =
      .next ((s.begin.setDivAcc s.nextDivAcc).issue ss).noteUnderrun := by
    rw [engineCycle_of_instr (s := s.begin.setDivAcc s.nextDivAcc) fetched]
    exact exec_outPins1_stall ss spent empty
  obtain ⟨t, e, eng, -, fifo, -, -, underrun⟩ := step_of_engineCycle noRst tick stalls
  exact ⟨t, e, eng, underrun, by simpa [empty] using fifo⟩

/-! ## The placed word (log 13) -/

theorem State.readyToIssue_noRst (s : State) : s.readyToIssue.nextInput.rst = false := by
  cases inputs : s.inputs <;> simp [State.readyToIssue, State.nextInput, CycleInput.quiet, inputs]

theorem State.readyToIssue_running (s : State) : s.readyToIssue.regs.en = true := by
  simp only [State.readyToIssue]
  split <;> rfl

theorem State.readyToIssue_legal (s : State) : s.readyToIssue.regs.divInt ≠ 0#16 := by
  simp only [State.readyToIssue]
  split
  · exact (by decide : 1#16 ≠ 0#16)
  · assumption

/-- DIV_ACC is left where the next cycle is a tick, and else put 256 below Dq, where it just is one. -/
theorem State.readyToIssue_due (s : State) :
    s.readyToIssue.regs.dq.setWidth 25 ≤ s.readyToIssue.divAcc + 256#25 := by
  simp only [State.readyToIssue]
  generalize (if s.regs.divInt = 0#16 then _ else _ : Regs).dq.setWidth 25 = dq
  by_cases due : dq ≤ s.divAcc + 256#25
  · simp [due]
  · simp [due]

theorem State.readyToIssue_tickDue (s : State) : s.readyToIssue.tickDue = true :=
  (tickDue_iff _).2 ⟨_, dividerStep_tick s.readyToIssue_running s.readyToIssue_legal s.readyToIssue_due⟩

/-- Settles O14: IMEM[PC] reads as the word placed, and `readyToIssue` touches neither IMEM nor PC. -/
theorem placedWordIsIssuedNext : Obligations.PlacedWordIsIssuedNext := by
  intro s nbits w i decoded
  exact ⟨State.readyToIssue_noRst _, State.readyToIssue_tickDue _,
    fetch_of_decode (s := s.withFetchWord nbits w) (Memory.read_write_same s.imem _ _) decoded⟩

/-! ## The two parts of a cycle -/

/-- A cycle without `rst` that answers `t`: a turn `u` of the engine's part, and `t` is what the port's part makes of
it. -/
theorem parts_of_step {s t : State} (noRst : s.nextInput.rst = false) (h : step s = .next t) :
    ∃ u, dividerTurn s.begin = .next u ∧ Turn s u ∧ t = portStep s.nextInput.op s.begin u ∧
      PortFrame s.nextInput.op s u t := by
  obtain ⟨u, hu, turn, e⟩ := step_split s noRst
  obtain rfl : t = portStep s.nextInput.op s.begin u := by simpa [h] using e
  exact ⟨u, hu, turn, rfl, portStep_frame _ _ _⟩

/-! ## EN = 0 (R121, R203) -/

/-- Settles O17: the engine's part changes nothing, and the port's part only PC and that only for PROGCTRL. -/
theorem pausedBlockHoldsItsState : Obligations.PausedBlockHoldsItsState := by
  intro s noRst paused
  obtain ⟨u, -, turn, e⟩ := step_split s noRst
  obtain ⟨rfl, -⟩ := turn.of_paused paused
  have port := portStep_frame s.nextInput.op s (s.begin.setDivAcc s.divAcc)
  exact ⟨_, e, port.divAcc, port.eng, port.engOther, portStep_fifo s _, port.underrun⟩

/-! ## The engine's registers (R21 to R26) -/

/-- The engine's registers stand unless an instruction is issued. -/
theorem Turn.eng_cases {s u : State} (turn : Turn s u) :
    u.eng = s.eng ∨
      (s.tickDue = true ∧ ∃ i, s.fetch = .instr i ∧ Issued (s.begin.setDivAcc s.nextDivAcc) i u) := by
  cases turn with
  | idle | badDivisor | unwritten | illegal => exact .inl rfl
  | issued i t tick fetched ran => exact .inr ⟨tick, i, fetched, issued_of_exec ran⟩

/-- X keeps its value unless a JMP or a SET is issued. -/
theorem Issued.writes_x {s t : State} {i : Instr} (h : Issued s i t) (changed : t.eng.x ≠ s.eng.x) :
    (∃ ss addr, i = .jmpXDec ss addr) ∨ ∃ ss imm, i = .setX ss imm := by
  cases i with
  | outPins1 ss => exact absurd h.keeps_of_out.1 changed
  | jmpXDec ss addr => exact .inl ⟨ss, addr, rfl⟩
  | setX ss imm => exact .inr ⟨ss, imm, rfl⟩

theorem Issued.xWritten_stays {s t : State} {i : Instr} (h : Issued s i t) (written : s.eng.xWritten = true) :
    t.eng.xWritten = true := by
  cases h with
  | shift | pull | stall | unwrittenX => exact written
  | jump | set => rfl

/-- The data line and the shift register stand unless an OUT is issued. -/
theorem Issued.is_out {s t : State} {i : Instr} (h : Issued s i t)
    (changed : t.eng.sdOut ≠ s.eng.sdOut ∨ t.eng.osr ≠ s.eng.osr ∨ t.eng.osrCount ≠ s.eng.osrCount) :
    ∃ ss, i = .outPins1 ss := by
  rcases isOut_cases i with out | ⟨-, notOut⟩
  · exact out
  · obtain ⟨-, line, osr, count, -⟩ := h.keeps_of_notOut notOut
    rcases changed with c | c | c
    · exact absurd line c
    · exact absurd osr c
    · exact absurd count c

/-- Settles O20: the port's part leaves the five registers alone; the engine's part issued an instruction that writes
them or left them alone too. -/
theorem engineRegistersChangeOnlyByTheirInstructions : Obligations.EngineRegistersChangeOnlyByTheirInstructions := by
  intro s t noRst h
  obtain ⟨u, -, turn, -, port⟩ := parts_of_step noRst h
  obtain ⟨x, written, osr, count, line, side⟩ : t.eng.x = u.eng.x ∧ t.eng.xWritten = u.eng.xWritten ∧
      t.eng.osr = u.eng.osr ∧ t.eng.osrCount = u.eng.osrCount ∧ t.eng.sdOut = u.eng.sdOut ∧
      t.eng.sideOut = u.eng.sideOut := by
    rw [← port.eng]
    exact ⟨rfl, rfl, rfl, rfl, rfl, rfl⟩
  rw [x, written, osr, count, line, side]
  rcases turn.eng_cases with same | ⟨tick, i, fetched, issued⟩
  · simp [same]
  · refine ⟨fun changed => ⟨tick, ?_⟩, fun changed => ⟨tick, ?_⟩, fun changed => ⟨tick, ?_⟩,
      fun changed => ⟨tick, i, fetched, ?_⟩, issued.xWritten_stays⟩
    · obtain ⟨ss, rfl⟩ := issued.is_out (.inl changed)
      exact ⟨ss, fetched⟩
    · obtain ⟨ss, rfl⟩ := issued.is_out (.inr changed)
      exact ⟨ss, fetched⟩
    · rw [fetched]
      simpa using issued.writes_x changed
    · rcases issued.sideOut with e | ⟨same, -⟩
      · exact e
      · exact absurd (congrArg Engine.sideOut same) changed

/-- Settles O21: while running PC is that of the engine's part; while paused the engine's part changes nothing, and the
port's part moves PC only by `setProgctrl`. -/
theorem pcChangesOnlyByAnInstructionOrProgctrl : Obligations.PcChangesOnlyByAnInstructionOrProgctrl := by
  intro s t noRst h moved
  obtain ⟨u, -, turn, -, port⟩ := parts_of_step noRst h
  rcases turn.eng_cases with same | ⟨tick, i, fetched, -⟩
  · have changed : t.eng ≠ u.eng := fun eq => moved (by rw [eq, same])
    have paused : s.regs.en = false := by
      rw [← Bool.not_eq_true]
      exact fun running => changed (port.engRun running)
    obtain ⟨v, access⟩ : ∃ v, accessOf s.nextInput.op s = .write 0x008#12 32 v := by
      by_contra absent
      exact changed (port.engOther fun v access => absent ⟨v, access⟩)
    have written := step_of_write_paused noRst (by decide) access paused
    rw [(regAt_eq_progctrl _).2 rfl, writeReg, configWrite_paused (pre := s.begin) _ _ _ paused, h] at written
    cases written
    exact .inr ⟨paused, v, access, rfl⟩
  · exact .inl ⟨tick, i, fetched⟩

/-! ## Marks, FIFO, configuration (R41, R171, R316) -/

/-- Settles O27: neither part of a cycle takes a mark away or writes the parameters; a reset keeps the parameters. -/
theorem marksNeverShrink : Obligations.MarksNeverShrink := by
  intro s t h
  cases rst : s.nextInput.rst with
  | true =>
    obtain rfl : s.afterRst = t := by simpa [step_of_rst rst] using h
    exact ⟨rfl, fun noRst => by simp at noRst⟩
  | false =>
    obtain ⟨u, -, turn, -, port⟩ := parts_of_step rst h
    have frame := turn.frame
    have refusals : ∀ r ∈ s.marks.refusals, r ∈ t.marks.refusals := port.refusals ▸ frame.refusals
    refine ⟨port.params.trans frame.params, fun _ => ⟨fun f hf => port.faults f (frame.faults f hf), refusals, ?_,
      fun seen => port.underrun.trans (frame.underrun seen)⟩⟩
    simp only [Marks.refused, Bool.not_eq_true', List.isEmpty_eq_false_iff_exists_mem]
    exact fun ⟨r, hr⟩ => ⟨r, refusals r hr⟩

/-- Settles O28: the queue law of a cycle, and its lengths. -/
theorem fifoUpdateOfACycle : Obligations.FifoUpdateOfACycle := by
  intro s t noRst h
  have law := popped_append_fifo_of_step noRst h
  have lengths := congrArg List.length law
  rw [List.length_append, List.length_append] at lengths
  exact ⟨law, (Nat.add_comm _ _).trans lengths⟩

/-- Settles O41: the engine's part writes no configuration, and with EN = 1 the port's part writes EN only. -/
theorem runningBlockKeepsItsConfiguration : Obligations.RunningBlockKeepsItsConfiguration := by
  intro s t noRst running h
  obtain ⟨u, -, turn, -, port⟩ := parts_of_step noRst h
  obtain ⟨imem, regs⟩ := port.config running
  refine ⟨imem.trans turn.frame.imem, ?_⟩
  rwa [turn.frame.regs, running] at regs

/-! ## The access of the same cycle (R45, R315) -/

/-- Settles O42: both cycles have the engine's part in common, and the port's part leaves its DIV_ACC, its engine but
for PC and its underrun mark alone. -/
theorem accessDoesNotReachTheEngineInItsCycle : Obligations.AccessDoesNotReachTheEngineInItsCycle := by
  intro s t u a b rest ht hu
  obtain ⟨v, hv, -, -, portA⟩ := parts_of_step rfl ht
  obtain ⟨w, hw, -, -, portB⟩ := parts_of_step rfl hu
  obtain rfl : v = w := Host.Outcome.next.inj (hv.symm.trans hw)
  refine ⟨portA.divAcc.trans portB.divAcc.symm, ?_,
    fun running => (portA.engRun running).trans (portB.engRun running).symm, portA.underrun.trans portB.underrun.symm⟩
  calc { t.eng with pc := u.eng.pc }
      = { ({ t.eng with pc := v.eng.pc } : Engine) with pc := u.eng.pc } := rfl
    _ = { ({ u.eng with pc := v.eng.pc } : Engine) with pc := u.eng.pc } := by rw [portA.eng, portB.eng]
    _ = u.eng := rfl

/-- Settles O43: the divider's refusal comes from the engine's part and the overflow from the port's. -/
theorem refusalAndFaultOfOneCycleAreBothRecorded : Obligations.RefusalAndFaultOfOneCycleAreBothRecorded := by
  intro s w noRst running zero access full
  have bad : dividerStep s = .badDivisor := dividerStep_badDivisor running zero
  have noTick : s.tickDue = false := by simp [State.tickDue, bad]
  obtain ⟨t, e, acc, eng, refused⟩ := step_of_dividerStep noRst
  obtain ⟨t', e', fifo, overflow⟩ := txfWriteWhenFullIsDropped s w noRst access full
  obtain rfl : t = t' := by simpa [e] using e'
  refine ⟨t, e, refused bad, overflow, eng running noTick, ?_, ?_⟩
  · simpa [poppedWord_of_noTick noTick] using fifo
  · simpa [State.nextDivAcc, bad] using acc

end Sys2Proof.Machine

/-! The statements of spec/20_memory.md and spec/44_fifo_and_packer.md about single registers: good reads (R65, R70),
CTRL (R173), CLKDIV (R174), writes of FSTAT and reads of TXF (R176, R178). -/

namespace Sys2Proof.Machine

/-! ## Raw reads, and accesses that change nothing -/

theorem busStep_read {off : Offset} (pre post : State) (good : goodAccess off 32 = true) :
    busStep (.read off 32) pre post = post.setRdata (readReg (regAt off) pre) :=
  if_pos good

theorem busStep_write {off : Offset} (v : Word32) (pre post : State) (good : goodAccess off 32 = true) :
    busStep (.write off 32 v) pre post = writeReg (regAt off) v pre post :=
  if_pos good

/-- Settles O33: the port's part of the cycle is one read, on the state that the quiet cycle answers. -/
theorem readsHaveNoSideEffect : Obligations.ReadsHaveNoSideEffect := by
  intro s off rest good hin
  obtain ⟨u, -, noValue, cpu, quiet, e⟩ := step_quiet s _ rest hin
  refine ⟨u, quiet, noValue, ?_⟩
  rw [e, portStep_eq_busStep (op := .read off 32) (s := s) cpu.symm, accessOf,
    busStep_read s.begin u good, readReg_begin]
  rfl

/-- Settles O40: a write of FSTAT is nothing on the state that the quiet cycle answers, and a read of TXF is the value
0. -/
theorem fstatIgnoresWritesAndTxfReadsZero : Obligations.FstatIgnoresWritesAndTxfReadsZero := by
  intro s op rest hin
  obtain ⟨u, -, -, cpu, quiet, e⟩ := step_quiet s op rest hin
  refine ⟨u, quiet, ?_, ?_⟩
  · rintro v rfl
    have atC : regAt 0x00C#12 = .fstat := by decide
    rw [e, portStep_eq_busStep (op := .write 0x00C#12 32 v) (s := s) cpu.symm, accessOf,
      busStep_write v s.begin u (by decide), atC, writeReg]
  · rintro rfl
    rw [e, portStep_eq_busStep (op := .read 0x010#12 32) (s := s) cpu.symm, accessOf,
      busStep_read s.begin u (by decide), (regAt_eq_txf _).2 rfl]
    rfl

/-! ## CTRL (R173) -/

theorem readReg_ctrl (s : State) : readReg .ctrl s = if s.regs.en then 1#32 else 0#32 := by
  cases en : s.regs.en <;> simp [readReg, en]

/-- Settles O34: the write is `setEn` on what the engine's part answers, which leaves the configuration alone. -/
theorem ctrlReadsAndSetsEnable : Obligations.CtrlReadsAndSetsEnable := by
  intro s noRst
  have at0 : regAt 0x000#12 = .ctrl := by decide
  refine ⟨fun access => ?_, fun v access => ?_⟩
  · obtain ⟨t, e, value, regs, -⟩ := step_of_read noRst (by decide) access
    rw [at0, readReg_ctrl] at value
    exact ⟨t, e, value, regs⟩
  · obtain ⟨u, -, frame, e⟩ := step_of_write noRst (by decide) access
    rw [at0, writeReg] at e
    exact ⟨_, e, congrArg (fun r : Regs => { r with en := v.getLsbD 0 }) frame.regs, frame.imem⟩

/-! ## CLKDIV (R174) -/

/-- The fields of CLKDIV as read, from bit 31 down. -/
theorem readReg_clkdiv_fields (s : State) :
    (readReg .clkdiv s).extractLsb' 16 16 = s.regs.divInt ∧ (readReg .clkdiv s).extractLsb' 8 8 = s.regs.divFrac ∧
      (readReg .clkdiv s).extractLsb' 0 8 = 0#8 := by
  simp (disch := decide) only [readReg, BitVec.extractLsb'_append_eq_of_le, BitVec.extractLsb'_append_eq_of_add_le,
    BitVec.extractLsb'_eq_self, Nat.reduceSub, and_self]

/-- Settles O35: a read returns the fields at their places; with EN = 0 the write is `setClkdiv` on the pre-state; with
EN = 1 it is the fault, on what the engine's part answers. -/
theorem clkdivReadsAndWrites : Obligations.ClkdivReadsAndWrites := by
  intro s noRst
  have at4 : regAt 0x004#12 = .clkdiv := by decide
  refine ⟨fun access => ?_, fun v access paused => ?_, fun v access running => ?_⟩
  · obtain ⟨t, e, value, regs, -⟩ := step_of_read noRst (by decide) access
    rw [at4] at value
    obtain ⟨int, frac, low⟩ := readReg_clkdiv_fields s
    exact ⟨t, readReg .clkdiv s, e, value, int, frac, low, regs⟩
  · have e := step_of_write_paused noRst (by decide) access paused
    rw [at4, writeReg, configWrite_paused (pre := s.begin) _ _ _ paused] at e
    exact ⟨_, e, rfl, rfl, rfl, rfl⟩
  · obtain ⟨u, -, frame, e⟩ := step_of_write noRst (by decide) access
    rw [at4, writeReg, configWrite_running (pre := s.begin) _ _ _ running] at e
    exact ⟨_, e, frame.regs, by simp⟩

end Sys2Proof.Machine

/-! The statements of spec/44_fifo_and_packer.md about the packer's laws (R162), and of spec/45_clock_divider.md about
the ticks of a run (R204) and the divisor calculation (R211, R212). -/

namespace Sys2Proof.Machine

/-! ## The packer (R162) -/

/-- A Sample is the signed value of its 16-bit pattern. -/
theorem toInt_ofInt_of_sampleInRange {v : Int} (h : sampleInRange v = true) : (BitVec.ofInt 16 v).toInt = v := by
  simp only [sampleInRange, Bool.and_eq_true, decide_eq_true_eq] at h
  rw [BitVec.toInt_ofInt, Int.bmod_eq_of_le] <;> omega

/-- A word is its two halves put together again. -/
theorem append_halves (w : Word32) : w.extractLsb' 16 16 ++ w.extractLsb' 0 16 = w := by
  apply BitVec.eq_of_getLsbD_eq
  intro i hi
  rw [BitVec.getLsbD_append]
  by_cases low : i < 16
  · simp [low]
  · have high : i - 16 < 16 := by omega
    simp [low, high, Nat.add_sub_cancel' (Nat.le_of_not_lt low)]

/-- Settles O46: the halves of a packed word are the patterns, whose signed values are the Samples; the patterns of the
halves' signed values are the halves. -/
theorem packAndUnpackAreInverse : Obligations.PackAndUnpackAreInverse := by
  refine ⟨fun l r left right => ?_, fun w => ?_⟩
  · obtain ⟨high, low⟩ := packPutsLeftHighAndRightLow.1 l r
    rw [unpack, high, low, toInt_ofInt_of_sampleInRange left, toInt_ofInt_of_sampleInRange right]
  · simp only [pack, unpack, BitVec.ofInt_toInt, append_halves]

/-! ## Ticks over a run (R204) -/

/-- A legal divisor is at least 1.0. -/
theorem Regs.le_dq {r : Regs} (legal : r.divInt ≠ 0#16) : 256 ≤ r.dq.toNat := by
  have positive : r.divInt.toNat ≠ 0 := fun zero => legal (BitVec.eq_of_toNat_eq zero)
  rw [Regs.dq_toNat]
  omega

/-- One running cycle from a phase below Dq: the phase and 256, less Dq in a tick, and below Dq again. -/
theorem nextDivAcc_of_running {s : State} (running : s.regs.en = true) (legal : s.regs.divInt ≠ 0#16)
    (phase : s.divAcc.toNat < s.regs.dq.toNat) :
    s.divAcc.toNat + 256 = s.nextDivAcc.toNat + s.regs.dq.toNat * s.tickDue.toNat ∧
      s.nextDivAcc.toNat < s.regs.dq.toNat := by
  have range : s.divAcc.toNat < 2 ^ 24 := phase.trans s.regs.dq.isLt
  have least := Regs.le_dq legal
  have compare := dq_le_sum_iff s.regs s.divAcc range
  rw [← Regs.dq_toNat] at compare
  by_cases due : s.regs.dq.setWidth 25 ≤ s.divAcc + 256#25
  · have answer := dividerStep_tick running legal due
    have left := sum_sub_dq_toNat range due
    rw [← Regs.dq_toNat] at left
    have reached := compare.1 due
    simp only [State.tickDue, State.nextDivAcc, answer, left, Bool.toNat_true]
    omega
  · have answer := dividerStep_noTick running legal due
    have below := mt compare.2 due
    simp only [State.tickDue, State.nextDivAcc, answer, divAcc_add_toNat _ range, Bool.toNat_false]
    omega

/-- A running cycle leaves the divider at its next phase and the divisor as it was. -/
theorem divider_of_running_step {s t : State} (noRst : s.nextInput.rst = false) (running : s.regs.en = true)
    (h : step s = .next t) : t.divAcc = s.nextDivAcc ∧ t.regs.dq = s.regs.dq ∧ t.regs.divInt = s.regs.divInt := by
  obtain ⟨u, -, turn, -, port⟩ := parts_of_step noRst h
  have regs := (runningBlockKeepsItsConfiguration s t noRst running h).2
  have dq : ({ t.regs with en := true } : Regs).dq = s.regs.dq := by rw [regs]
  have int : ({ t.regs with en := true } : Regs).divInt = s.regs.divInt := by rw [regs]
  exact ⟨port.divAcc.trans turn.frame.divAcc, dq, int⟩

/-- Over a run the 256 of each cycle go to the phase and, a Dq for each tick, to the ticks. -/
theorem TickRun.phase_and_ticks {n k : Nat} {s u : State} (run : TickRun n k s u) (legal : s.regs.divInt ≠ 0#16)
    (phase : s.divAcc.toNat < s.regs.dq.toNat) :
    s.divAcc.toNat + 256 * n = u.divAcc.toNat + s.regs.dq.toNat * k ∧ u.divAcc.toNat < s.regs.dq.toNat ∧
      u.regs.dq = s.regs.dq := by
  induction run with
  | done s => exact ⟨rfl, phase, rfl⟩
  | cycle n k s t u noRst running first _ ih =>
    obtain ⟨acc, dq, int⟩ := divider_of_running_step noRst running first
    obtain ⟨sum, below⟩ := nextDivAcc_of_running running legal phase
    obtain ⟨rest, phaseU, dqU⟩ := ih (int ▸ legal) (by rw [acc, dq]; exact below)
    rw [acc, dq] at rest
    rw [dq] at phaseU dqU
    refine ⟨?_, phaseU, dqU⟩
    rw [Nat.mul_add s.regs.dq.toNat]
    linarith

/-- Settles O19: quotient and remainder are the ticks and the phase, since the phase stays below Dq. -/
theorem tickCountOverRunningCycles : Obligations.TickCountOverRunningCycles := by
  intro n k s u run legal phase
  obtain ⟨sum, below, dq⟩ := run.phase_and_ticks legal phase
  have unique := Nat.div_mod_unique (phase.trans_le' (Nat.zero_le _)) |>.2 ⟨sum.symm, below⟩
  exact ⟨unique.1.symm, unique.2.symm, dq⟩

/-! ## CalcDivisor (R211, R212) -/

/-- A result is the quotient of R209 of positive rates, and at least 1.0. -/
theorem dq_bounds_of_calcDivisor {rate clk : Nat} {d : BitVec 16 × BitVec 8} (ok : calcDivisor rate clk = .ok d) :
    256 ≤ d.1.toNat * 256 + d.2.toNat ∧ (d.1.toNat * 256 + d.2.toNat) * (2 * rate) ≤ 8 * clk + rate ∧
      8 * clk + rate < (d.1.toNat * 256 + d.2.toNat + 1) * (2 * rate) := by
  rw [dq_of_calcDivisor ok]
  rcases calcDivisor_cases rate clk with ⟨-, e⟩ | ⟨-, -, e⟩ | ⟨valid, range, -⟩
  · simp [e] at ok
  · simp [e] at ok
  · have positive : 0 < 2 * rate := by omega
    exact ⟨by omega, Nat.div_mul_le_self _ _, (Nat.lt_mul_div_succ _ positive).trans_eq (Nat.mul_comm _ _)⟩

/-- R206: the produced bit-clock is 128 × SYSCLK_HZ / Dq. -/
theorem bitClockRate_eq (clk dq : Nat) : bitClockRate clk dq = 128 * (clk : Rat) / dq := by
  rw [bitClockRate, tickRate]
  ring

/-- Settles O49: rounding to nearest misses 8 × SYSCLK_HZ by at most SAMPLE_RATE_HZ, which over Dq is the first bound;
Dq is at least 256, which gives the second. -/
theorem calcDivisorIsAccurate : Obligations.CalcDivisorIsAccurate := by
  intro rate clk dq d ok hdq
  obtain ⟨least, lower, upper⟩ := dq_bounds_of_calcDivisor ok
  rw [← hdq] at least lower upper
  have leastQ : (256 : Rat) ≤ dq := by exact_mod_cast least
  have lowerQ : (dq : Rat) * (2 * rate) ≤ 8 * clk + rate := by exact_mod_cast lower
  have upperQ : 8 * (clk : Rat) + rate < (dq + 1) * (2 * rate) := by exact_mod_cast upper
  have target : (bitClockTarget rate : Rat) = 32 * rate := by
    rw [bitClockTarget]
    push_cast
    ring
  have positive : (0 : Rat) < dq := by linarith
  have rateNonneg : (0 : Rat) ≤ rate := rate.cast_nonneg
  have miss : |8 * (clk : Rat) - dq * (2 * rate)| ≤ rate := abs_le.2 ⟨by linarith, by linarith⟩
  have scaled : bitClockRate clk dq - bitClockTarget rate = 16 * (8 * clk - dq * (2 * rate)) / dq := by
    rw [bitClockRate_eq, target]
    field_simp
    ring
  have first : |bitClockRate clk dq - (bitClockTarget rate : Rat)| ≤
      (bitClockTarget rate : Rat) / (2 * (dq : Rat)) := by
    calc |bitClockRate clk dq - (bitClockTarget rate : Rat)|
        = 16 * |8 * (clk : Rat) - dq * (2 * rate)| / dq := by
          rw [scaled, abs_div, abs_mul, abs_of_pos positive, abs_of_pos (by norm_num : (0 : Rat) < 16)]
      _ ≤ 16 * rate / dq := by gcongr
      _ = bitClockTarget rate / (2 * dq) := by
          rw [target]
          field_simp
          ring
  refine ⟨first, first.trans ?_⟩
  have targetNonneg : (0 : Rat) ≤ bitClockTarget rate := Nat.cast_nonneg _
  gcongr
  linarith

/-- Settles O50: the calculation of the spec's worked case, carried out. -/
theorem calcDivisorWorkedCase : Obligations.CalcDivisorWorkedCase := by
  unfold Obligations.CalcDivisorWorkedCase
  decide

end Sys2Proof.Machine

/-! The statements about the reset state (spec/70_reset_and_hazards.md R311) and about the ranges of spec/10_state.md
that every step keeps (`State.Inv`). -/

namespace Sys2Proof.Machine

/-! ## The reset state (R311) -/

/-- After reset the FIFO is empty, and not full since FIFO_DEPTH is at least 1. -/
theorem readReg_fstat_resetWith {p : Params} (inputs : List CycleInput) (depth : p.depthOk = true) :
    readReg .fstat (State.resetWith p inputs) = 0x00000200#32 := by
  simp only [Params.depthOk, Bool.and_eq_true, decide_eq_true_eq] at depth
  have notFull : (State.resetWith p inputs).full = false := by
    simp [State.full, State.level, State.resetWith]
    omega
  have empty : (State.resetWith p inputs).empty = true := rfl
  have level : (State.resetWith p inputs).level = 0 := rfl
  rw [readReg, State.fstat, notFull, empty, level]
  decide

/-- The configuration registers read as their fields after reset, which are the same for all parameters. -/
theorem readReg_config_resetWith (p : Params) (inputs : List CycleInput) :
    readReg .ctrl (State.resetWith p inputs) = 0x00000000#32 ∧
      readReg .clkdiv (State.resetWith p inputs) = 0x00010000#32 ∧
      readReg .progctrl (State.resetWith p inputs) = 0x001F0000#32 := by
  simp only [readReg, State.resetWith]
  decide

/-- Settles O24: every value is one that `State.resetWith` names, or a register as it reads. -/
theorem resetStateHasTheSpecValues : Obligations.ResetStateHasTheSpecValues := by
  intro p inputs depth
  obtain ⟨ctrl, clkdiv, progctrl⟩ := readReg_config_resetWith p inputs
  exact ⟨rfl, rfl, rfl, rfl, rfl, rfl, Memory.read_nil, rfl, readReg_fstat_resetWith inputs depth, rfl, ctrl, clkdiv,
    progctrl, rfl, rfl, rfl⟩

/-! ## The invariant at reset -/

theorem Params.waveOk_of_wf {p : Params} (wf : p.wf = true) : p.waveOk = true := by
  simp only [Params.wf, Bool.and_eq_true] at wf
  obtain ⟨⟨-, wave⟩, -⟩ := wf
  exact wave

/-- A Waveform has an even length of at least 2 (R230). -/
theorem Params.wave_length {p : Params} (wave : p.waveOk = true) : p.wave.length % 2 = 0 ∧ 2 ≤ p.wave.length := by
  simp only [Params.waveOk, Bool.and_eq_true, beq_iff_eq, decide_eq_true_eq] at wave
  exact wave.1

theorem State.inv_resetWith {p : Params} (inputs : List CycleInput) (wf : p.wf = true) :
    (State.resetWith p inputs).Inv := by
  have length := (Params.wave_length (Params.waveOk_of_wf wf)).2
  exact ⟨wf, rfl, Nat.zero_le _, Nat.le_refl 32, fun _ _ => BitVec.getLsbD_zero, Nat.two_pow_pos 24, List.nodup_nil,
    List.nodup_nil, rfl, Nat.zero_lt_of_lt length⟩

/-- Settles O25: the reset values lie in the ranges, and the default parameters are legal. -/
theorem resetMeetsTheInvariant : Obligations.ResetMeetsTheInvariant :=
  ⟨fun _ inputs wf => State.inv_resetWith inputs wf, State.inv_resetWith [] (by decide)⟩

/-! ## What a step keeps, range by range -/

/-- R29: a word is accepted below FIFO_DEPTH only. -/
theorem level_of_step {s t : State} (noRst : s.nextInput.rst = false) (h : step s = .next t)
    (range : s.level ≤ s.params.fifoDepth) : t.level ≤ s.params.fifoDepth := by
  have law := (fifoUpdateOfACycle s t noRst h).2
  by_cases room : s.level < s.params.fifoDepth
  · have one : (acceptedWord s).toList.length ≤ 1 := by cases acceptedWord s <;> simp
    omega
  · have nothing : acceptedWord s = .none := if_neg room
    simp only [nothing, Option.toList_none, List.length_nil] at law
    omega

/-- R23, R24: a pull leaves one zero at the bottom of the OSR, and a further shift one more. -/
theorem Issued.osr_range {s t : State} {i : Instr} (h : Issued s i t) (count : s.eng.osrCount.toNat ≤ 32)
    (zeros : s.eng.tailZero) : t.eng.osrCount.toNat ≤ 32 ∧ t.eng.tailZero := by
  cases h with
  | pull ss v =>
    refine ⟨by simp, fun j hj => ?_⟩
    obtain rfl : j = 0 := by simpa using hj
    simp
  | shift ss loaded =>
    have left : s.eng.osrCount.toNat ≠ 32 := fun spent => loaded (BitVec.eq_of_toNat_eq spent)
    have next : (s.eng.osrCount + 1#6).toNat = s.eng.osrCount.toNat + 1 := by
      simp
      omega
    refine ⟨by simp only [State.goto_eng, State.shiftOut_eng, next]; omega, fun j hj => ?_⟩
    simp only [State.goto_eng, State.shiftOut_eng, next] at hj ⊢
    cases j with
    | zero => simp
    | succ j => simp [zeros j (by omega)]
  | stall | jump | unwrittenX | set => exact ⟨count, zeros⟩

/-- R31: a tick takes Dq from the sum, which is at least the 256 added; without one the sum is below Dq. -/
theorem nextDivAcc_range {s : State} (range : s.divAcc.toNat < 2 ^ 24) : s.nextDivAcc.toNat < 2 ^ 24 := by
  have compare := dq_le_sum_iff s.regs s.divAcc range
  rw [← Regs.dq_toNat] at compare
  rcases dividerStep_cases s with ⟨-, e⟩ | ⟨-, -, e⟩ | ⟨-, -, early, e⟩ | ⟨-, legal, due, e⟩ <;>
    simp only [State.nextDivAcc, e]
  · exact range
  · exact range
  · have below := mt compare.2 early
    have top := s.regs.dq.isLt
    rw [divAcc_add_toNat _ range]
    omega
  · have least := Regs.le_dq legal
    rw [sum_sub_dq_toNat range due, ← Regs.dq_toNat]
    omega

/-- The loader moves its own place only. -/
theorem loaderNext_producer (s : State) : (loaderNext s).idx = s.cpu.idx ∧ (loaderNext s).phase = s.cpu.phase := by
  unfold loaderNext
  split <;> exact ⟨rfl, rfl⟩

/-- R233: the index moves in pairs, modulo an even N. -/
theorem cpuAfter_idx (op : BusOp) {s : State} (wave : s.params.waveOk = true) (even : s.cpu.idx % 2 = 0)
    (range : s.cpu.idx < s.params.wave.length) :
    (cpuAfter op s).idx % 2 = 0 ∧ (cpuAfter op s).idx < s.params.wave.length := by
  obtain ⟨evenLength, two⟩ := Params.wave_length wave
  cases op with
  | idle | read | write => exact ⟨even, range⟩
  | loaderTurn =>
    rw [cpuAfter, (loaderNext_producer s).1]
    exact ⟨even, range⟩
  | producerTurn =>
    rw [cpuAfter]
    cases phase : s.cpu.phase with
    | poll =>
      rw [producerNext_poll wave phase]
      exact ⟨even, range⟩
    | enqueue =>
      rw [producerNext_enqueue wave phase]
      refine ⟨?_, Nat.mod_lt _ (by omega)⟩
      rw [Nat.mod_mod_of_dvd _ (Nat.dvd_of_mod_eq_zero evenLength)]
      omega

/-- The OSR's ranges over the engine's part of a cycle. -/
theorem Turn.osr_range {s u : State} (turn : Turn s u) (count : s.eng.osrCount.toNat ≤ 32) (zeros : s.eng.tailZero) :
    u.eng.osrCount.toNat ≤ 32 ∧ u.eng.tailZero := by
  rcases turn.eng_cases with same | ⟨-, i, -, issued⟩
  · rw [same]
    exact ⟨count, zeros⟩
  · exact issued.osr_range count zeros

/-- Settles O26: a reset meets the invariant; the two parts of a cycle keep it range by range. -/
theorem stepKeepsTheInvariant : Obligations.StepKeepsTheInvariant := by
  rintro s t ⟨params, imem, level, count, zeros, divAcc, faults, refusals, even, idx⟩ h
  cases rst : s.nextInput.rst with
  | true =>
    obtain rfl : s.afterRst = t := by simpa [step_of_rst rst] using h
    exact State.inv_resetWith _ params
  | false =>
    obtain ⟨u, -, turn, -, port⟩ := parts_of_step rst h
    have frame := turn.frame
    have sameParams : t.params = s.params := port.params.trans frame.params
    obtain ⟨osr, osrCount⟩ : t.eng.osr = u.eng.osr ∧ t.eng.osrCount = u.eng.osrCount := by
      rw [← port.eng]
      exact ⟨rfl, rfl⟩
    obtain ⟨count', zeros'⟩ := turn.osr_range count zeros
    obtain ⟨even', idx'⟩ := cpuAfter_idx s.nextInput.op (Params.waveOk_of_wf params) even idx
    rw [State.Inv, Engine.tailZero, sameParams, osr, osrCount, port.cpu, port.divAcc, frame.divAcc, port.refusals]
    exact ⟨params, port.imemWf (frame.imem ▸ imem), level_of_step rst h level, count', zeros', nextDivAcc_range divAcc,
      port.faultsSet (frame.faultsSet faults), frame.refusalSet refusals, even', idx'⟩

end Sys2Proof.Machine

/-! The statements of spec/46_producer_bridge.md about the producer in its environment: what it sees (R44), that it
never overflows the FIFO (R235), and which words it brings (R234, R236). -/

namespace Sys2Proof.Machine

/-! ## What the port returns in a cycle (R40) -/

theorem writeReg_rdata (r : Reg) (v : Word32) (pre post : State) : (writeReg r v pre post).rdata = post.rdata := by
  cases r with
  | ctrl | fstat | unmapped => rfl
  | clkdiv | progctrl | imem =>
    simp only [writeReg, configWrite]
    split <;> rfl
  | txf => rcases pushTxf_cases v pre post with ⟨-, e⟩ | ⟨-, e⟩ | ⟨-, e⟩ <;> rw [writeReg, e] <;> rfl

/-- Only a read returns a value. -/
theorem rdata_of_notRead {s t : State} (noRst : s.nextInput.rst = false) (h : step s = .next t)
    (notRead : ∀ off width, accessOf s.nextInput.op s ≠ .read off width) : t.rdata = none := by
  obtain ⟨u, -, turn, rfl, -⟩ := parts_of_step noRst h
  have noValue := turn.frame.rdata
  rw [portStep, accessOf_begin]
  rcases busStep_cases (accessOf s.nextInput.op s) s.begin (u.setCpu (cpuAfter s.nextInput.op s.begin)) with
    ⟨-, e⟩ | ⟨off, width, read, -, -⟩ | ⟨off, width, v, -, -, e⟩ | ⟨off, width, -, -, e⟩
  · rw [e]
    exact noValue
  · exact absurd read (notRead off width)
  · rw [e, writeReg_rdata]
    exact noValue
  · rw [e]
    exact noValue

/-! ## What the producer sees (R44) -/

theorem fstat_congr {s t : State} (params : s.params = t.params) (level : s.level = t.level) : s.fstat = t.fstat := by
  simp only [State.fstat, State.empty, State.full, params, level]

theorem producerAccess_congr {s t : State} (params : s.params = t.params) (cpu : s.cpu = t.cpu) :
    producerAccess s = producerAccess t := by
  simp only [producerAccess, producerWord, params, cpu]

theorem producerNext_congr {s t : State} (params : s.params = t.params) (cpu : s.cpu = t.cpu)
    (level : s.level = t.level) : producerNext s = producerNext t := by
  simp only [producerNext, params, cpu, fstat_congr params level]

/-- The producer reads at a poll only, and only with a legal Waveform. -/
theorem poll_of_producerAccess_read {s : State} {off : Offset} {width : Nat}
    (read : producerAccess s = .read off width) : s.params.waveOk = true ∧ s.cpu.phase = .poll := by
  cases wave : s.params.waveOk with
  | false => simp [producerAccess, wave] at read
  | true =>
    cases phase : s.cpu.phase with
    | poll => exact ⟨rfl, rfl⟩
    | enqueue =>
      rw [producerAccess_enqueue wave phase] at read
      cases read

/-- The producer's turn returns FSTAT at a poll, and nothing else. -/
theorem rdata_of_producerTurn {s t : State} (turn : s.nextInput = { rst := false, op := .producerTurn })
    (h : step s = .next t) :
    t.rdata = if s.params.waveOk = true ∧ s.cpu.phase = .poll then some s.fstat else none := by
  have noRst : s.nextInput.rst = false := by rw [turn]
  have access : accessOf s.nextInput.op s = producerAccess s := by rw [turn, accessOf]
  split
  next poll =>
    obtain ⟨t', e, value, -, -⟩ :=
      step_of_read noRst (by decide) (access.trans (producerAccess_poll poll.1 poll.2))
    obtain rfl : t = t' := by simpa [h] using e
    exact value
  next noPoll =>
    exact rdata_of_notRead noRst h fun off width read => noPoll (poll_of_producerAccess_read (access.symm.trans read))

/-- Settles O54: the producer's access and next place, and FSTAT, are functions of what the two states have in common.
-/
theorem producerSeesOnlyTheOccupancy : Obligations.ProducerSeesOnlyTheOccupancy := by
  intro s t s' t' turnS turnT params cpu level hs ht
  have noRstS : s.nextInput.rst = false := by rw [turnS]
  have noRstT : t.nextInput.rst = false := by rw [turnT]
  obtain ⟨u, -, -, -, portS⟩ := parts_of_step noRstS hs
  obtain ⟨v, -, -, -, portT⟩ := parts_of_step noRstT ht
  refine ⟨?_, ?_, ?_⟩
  · rw [rdata_of_producerTurn turnS hs, rdata_of_producerTurn turnT ht, params, cpu, fstat_congr params level]
  · rw [portS.cpu, portT.cpu, turnS, turnT, cpuAfter, cpuAfter, producerNext_congr params cpu level]
  · simp only [txfWrite, turnS, turnT, accessOf, producerAccess_congr params cpu]

/-! ## TXF writes -/

theorem access_of_txfWrite {s : State} {w : Word32} (h : txfWrite s = some w) :
    accessOf s.nextInput.op s = .write 0x010#12 32 w := by
  unfold txfWrite at h
  split at h
  next off width v access =>
    split at h
    next txf =>
      obtain rfl := Option.some.inj h
      rw [access, ((goodAccess_iff off width).1 txf.1).1, (regAt_eq_txf off).1 txf.2]
    next => cases h
  next => cases h
  next => cases h

theorem txfWrite_eq_none {s : State} (other : ∀ w, accessOf s.nextInput.op s ≠ .write 0x010#12 32 w) :
    txfWrite s = none :=
  Option.eq_none_iff_forall_ne_some.2 fun w h => other w (access_of_txfWrite h)

/-- R168: a register write records an overflow only as TXF at FIFO_DEPTH. -/
theorem overflow_of_writeReg {r : Reg} {v w : Word32} {pre post : State}
    (recorded : Fault.overflowWrite w ∈ (writeReg r v pre post).marks.faults) :
    Fault.overflowWrite w ∈ post.marks.faults ∨ (r = .txf ∧ v = w ∧ pre.level = pre.params.fifoDepth) := by
  cases r with
  | ctrl | fstat | unmapped => exact .inl recorded
  | clkdiv | progctrl | imem =>
    simp only [writeReg, configWrite] at recorded
    split at recorded <;> exact .inl (by simpa using recorded)
  | txf =>
    rw [writeReg] at recorded
    rcases pushTxf_cases v pre post with ⟨-, e⟩ | ⟨full, e⟩ | ⟨-, e⟩ <;> rw [e] at recorded
    · exact .inl recorded
    · have new : Fault.overflowWrite w ∈ post.marks.faults ∨ w = v := by simpa using recorded
      exact new.imp id fun same => ⟨rfl, same.symm, full⟩
    · exact .inl recorded

/-- R168: a cycle records an overflow only for a TXF write at FIFO_DEPTH. -/
theorem overflow_of_step {s t : State} {w : Word32} (noRst : s.nextInput.rst = false) (h : step s = .next t)
    (recorded : Fault.overflowWrite w ∈ t.marks.faults) :
    Fault.overflowWrite w ∈ s.marks.faults ∨ (txfWrite s = some w ∧ s.level = s.params.fifoDepth) := by
  obtain ⟨u, -, turn, rfl, -⟩ := parts_of_step noRst h
  have old := turn.frame.overflow w
  rw [portStep, accessOf_begin] at recorded
  rcases busStep_cases (accessOf s.nextInput.op s) s.begin (u.setCpu (cpuAfter s.nextInput.op s.begin)) with
    ⟨-, e⟩ | ⟨off, width, -, -, e⟩ | ⟨off, width, v, access, good, e⟩ | ⟨off, width, -, -, e⟩ <;> rw [e] at recorded
  · exact .inl (old recorded)
  · exact .inl (old recorded)
  · rcases overflow_of_writeReg recorded with was | ⟨txf, rfl, full⟩
    · exact .inl (old was)
    · rw [((goodAccess_iff off width).1 good).1, (regAt_eq_txf off).1 txf] at access
      exact .inr ⟨txfWrite_of_access access, full⟩
  · exact .inl (old (by simpa using recorded))

/-! ## A cycle in which only the producer writes TXF (R231, R235) -/

/-- The two kinds of such a cycle, from a safe state: nothing is written to TXF, the index stands, and a producer
about to write has seen room; or the producer writes its word, with room, and polls next. -/
inductive ProducerCycle (s : State) : Prop where
  | quiet (noWrite : txfWrite s = none) (idx : (cpuAfter s.nextInput.op s).idx = s.cpu.idx)
      (room : (cpuAfter s.nextInput.op s).phase = .enqueue → s.level < s.params.fifoDepth) : ProducerCycle s
  | enqueue (write : txfWrite s = some (producerWord s)) (room : s.level < s.params.fifoDepth)
      (next : cpuAfter s.nextInput.op s =
        { s.cpu with idx := (s.cpu.idx + 2) % s.params.wave.length, phase := .poll }) : ProducerCycle s

theorem producerCycle_of_turn {s : State} (turn : s.nextInput.op = .producerTurn) (wave : s.params.waveOk = true)
    (level : s.level ≤ s.params.fifoDepth) (safe : s.ProducerSafe) : ProducerCycle s := by
  have access : accessOf s.nextInput.op s = producerAccess s := by rw [turn, accessOf]
  have place : cpuAfter s.nextInput.op s = producerNext s := by rw [turn, cpuAfter]
  cases phase : s.cpu.phase with
  | poll =>
    have poll := access.trans (producerAccess_poll wave phase)
    have next := place.trans (producerNext_poll wave phase)
    refine .quiet (txfWrite_eq_none fun w write => by simp [poll] at write) (by rw [next]) fun enqueue => ?_
    have notFull : s.level ≠ s.params.fifoDepth := by
      rintro full
      simp [next, full] at enqueue
    omega
  | enqueue =>
    exact .enqueue (txfWrite_of_access (access.trans (producerAccess_enqueue wave phase))) (safe phase)
      (place.trans (producerNext_enqueue wave phase))

theorem producerCycle_of_other {s : State} (notProducer : s.nextInput.op ≠ .producerTurn) (noWrite : txfWrite s = none)
    (safe : s.ProducerSafe) : ProducerCycle s := by
  have stands : (cpuAfter s.nextInput.op s).idx = s.cpu.idx ∧ (cpuAfter s.nextInput.op s).phase = s.cpu.phase := by
    cases op : s.nextInput.op with
    | idle | read | write => exact ⟨rfl, rfl⟩
    | loaderTurn => exact loaderNext_producer s
    | producerTurn => exact absurd op notProducer
  exact .quiet noWrite stands.1 fun enqueue => safe (stands.2 ▸ enqueue)

theorem producerCycle_of_onlyProducerWrites {s : State} (inv : s.Inv) (safe : s.ProducerSafe)
    (only : s.onlyProducerWrites = true) : ProducerCycle s := by
  obtain ⟨params, -, level, -⟩ := inv
  by_cases turn : s.nextInput.op = .producerTurn
  · exact producerCycle_of_turn turn (Params.waveOk_of_wf params) level safe
  · refine producerCycle_of_other turn ?_ safe
    unfold State.onlyProducerWrites at only
    split at only
    next op => exact absurd op turn
    next => exact Option.isNone_iff_eq_none.1 only

/-- A cycle that writes no word to TXF leaves no more in the FIFO than there was. -/
theorem level_of_noWrite {s t : State} (noRst : s.nextInput.rst = false) (h : step s = .next t)
    (noWrite : txfWrite s = none) : t.level ≤ s.level := by
  have law := (fifoUpdateOfACycle s t noRst h).2
  have nothing : acceptedWord s = .none := by simp [acceptedWord, noWrite]
  simp only [nothing, Option.toList_none, List.length_nil] at law
  omega

/-- Settles O52: in both kinds of cycle the room seen is still there, and no TXF write meets a full FIFO; after a
reset the producer is before a poll and nothing is recorded. -/
theorem producerNeverOverflowsTheFifo : Obligations.ProducerNeverOverflowsTheFifo := by
  intro s t inv safe only h
  cases rst : s.nextInput.rst with
  | true =>
    obtain rfl : s.afterRst = t := by simpa [step_of_rst rst] using h
    have poll : s.afterRst.cpu.phase = .poll := rfl
    have clean : s.afterRst.marks.faults = [] := rfl
    exact ⟨fun enqueue => by simp [poll] at enqueue, fun w recorded => by simp [clean] at recorded⟩
  | false =>
    have params := (marksNeverShrink s t h).1
    obtain ⟨u, -, -, -, port⟩ := parts_of_step rst h
    rw [State.ProducerSafe, params, port.cpu]
    cases producerCycle_of_onlyProducerWrites inv safe only with
    | quiet noWrite _ room =>
      refine ⟨fun enqueue => (level_of_noWrite rst h noWrite).trans_lt (room enqueue), fun w recorded => ?_⟩
      rcases overflow_of_step rst h recorded with was | ⟨write, -⟩
      · exact was
      · simp [noWrite] at write
    | enqueue _ room next =>
      refine ⟨fun enqueue => by simp [next] at enqueue, fun w recorded => ?_⟩
      rcases overflow_of_step rst h recorded with was | ⟨-, full⟩
      · exact was
      · exact absurd full room.ne

/-! ## The words of a run (R234, R236) -/

/-- R232, R233: with idx at the k-th pair the producer's word is the k-th of the Waveform. -/
theorem producerWord_eq_waveWord {s : State} {k : Nat} (inv : s.Inv) (idx : s.cpu.idx = 2 * k % s.params.wave.length) :
    producerWord s = waveWord s.params.wave k := by
  obtain ⟨params, -, -, -, -, -, -, -, even, below⟩ := inv
  have evenLength := (Params.wave_length (Params.waveOk_of_wf params)).1
  have second : (2 * k + 1) % s.params.wave.length = s.cpu.idx + 1 := by
    rw [← Nat.mod_add_mod, ← idx, Nat.mod_eq_of_lt (by omega)]
  rw [producerWord, waveWord, second, ← idx]

/-- From the k-th pair on, the words accepted are those of the Waveform from the k-th on. -/
theorem QueueRun.accepted_eq_waveWords {s u : State} {popped accepted : List Word32}
    (run : QueueRun (fun q => q.onlyProducerWrites = true) s popped accepted u) {k : Nat} (inv : s.Inv)
    (safe : s.ProducerSafe) (idx : s.cpu.idx = 2 * k % s.params.wave.length) :
    accepted = (List.range' k accepted.length).map (waveWord s.params.wave) := by
  induction run generalizing k with
  | done s => rfl
  | cycle s t u popped accepted noRst only first _ ih =>
    have params := (marksNeverShrink s t first).1
    obtain ⟨safeT, -⟩ := producerNeverOverflowsTheFifo s t inv safe only first
    obtain ⟨_, -, -, -, port⟩ := parts_of_step noRst first
    have next := fun {j : Nat} => ih (k := j) (stepKeepsTheInvariant s t inv first) safeT
    rw [params, port.cpu] at next
    cases producerCycle_of_onlyProducerWrites inv safe only with
    | quiet noWrite stands _ =>
      have nothing : acceptedWord s = .none := by simp [acceptedWord, noWrite]
      simpa [nothing] using next (stands.trans idx)
    | enqueue write room moves =>
      have word : acceptedWord s = some (waveWord s.params.wave k) := by
        rw [acceptedWord, if_pos room, write, producerWord_eq_waveWord inv idx]
      have pair : (cpuAfter s.nextInput.op s).idx = 2 * (k + 1) % s.params.wave.length := by
        rw [moves, idx, Nat.mod_add_mod, Nat.mul_add]
      rw [word]
      simpa [List.range'_succ] using next pair

/-- The first words of a list that lists the values of `f` are the first values. -/
theorem eq_map_range_of_append {α : Type} {f : Nat → α} {xs ys : List α}
    (h : xs ++ ys = (List.range (xs ++ ys).length).map f) : xs = (List.range xs.length).map f := by
  have taken := congrArg (List.take xs.length) h
  rwa [List.take_left, ← List.map_take, List.take_range, List.length_append, Nat.min_eq_left (by omega)] at taken

/-- Settles O53: the words accepted are those of the Waveform, and the words popped are the first of those accepted. -/
theorem wordsFollowTheWaveform : Obligations.WordsFollowTheWaveform := by
  intro s u popped accepted inv idx poll empty run
  have safe : s.ProducerSafe := fun enqueue => by simp [poll] at enqueue
  have words := run.accepted_eq_waveWords (k := 0) inv safe (by simpa using idx)
  rw [← List.range_eq_range'] at words
  have law : popped ++ u.fifo = accepted := by simpa [empty] using run.popped_append_fifo
  exact ⟨words, eq_map_range_of_append (ys := u.fifo) (by rwa [law])⟩

end Sys2Proof.Machine

/-! The statements of spec/70_reset_and_hazards.md and spec/60_exceptions.md about the loader (R251, R287, R313), and of
spec/10_state.md about the output pins (R39). -/

namespace Sys2Proof.Machine

/-- Settles O44: the three pins of this build differ, so each line drives its own. -/
theorem outputLinesDriveTheirPins : Obligations.OutputLinesDriveTheirPins := by
  intro s pins
  simp [State.pinLevel, State.sd, State.bclk, State.ws, pins]

/-! ## The boot script (R251, R287, R313) -/

/-- Without an initialisation error the script is IMEM, CLKDIV, PROGCTRL and CTRL = 1. -/
theorem loaderScript_eq {p : Params} {d : BitVec 16 × BitVec 8} (adjacent : p.pins.adjacent = true)
    (divisor : calcDivisor p.sampleRateHz p.sysclkHz = .ok d) (fits : p.image.fits = true)
    (admissible : imageAdmissible p.image = true) :
    loaderScript p = .ok (imemWrites 0 p.image.words ++
      [(0x004#12, clkdivWord d), (0x008#12, imageProgctrl p.image), (0x000#12, 1#32)]) := by
  simp [loaderScript, adjacent, divisor, fits, admissible]

/-- A script is made only when none of the checks of R287 fails. -/
theorem checks_of_loaderScript {p : Params} {script : List (Offset × Word32)} (ok : loaderScript p = .ok script) :
    p.pins.adjacent = true ∧ (∃ d, calcDivisor p.sampleRateHz p.sysclkHz = .ok d) ∧ p.image.fits = true ∧
      imageAdmissible p.image = true := by
  unfold loaderScript at ok
  split at ok
  next => cases ok
  next adjacent =>
    split at ok
    next => cases ok
    next d divisor =>
      split at ok
      next => cases ok
      next fits =>
        split at ok
        next => cases ok
        next admissible =>
          exact ⟨by simpa using adjacent, ⟨d, divisor⟩, by simpa using fits, by simpa using admissible⟩

/-- Settles O55: the I2S image passes the checks, and the writes are its words in order and its three addresses. -/
theorem loaderWritesTheMicroprogram : Obligations.LoaderWritesTheMicroprogram := by
  intro p d image pins divisor
  have adjacent : p.pins.adjacent = true := by simp [PinBinding.adjacent, pins]
  have fits : Image.i2s.fits = true := by decide
  have admissible : imageAdmissible Image.i2s = true := by decide
  have words : imemWrites 0 Image.i2s.words = [(0x080#12, 0x7001#32), (0x084#12, 0x1840#32), (0x088#12, 0x6001#32),
      (0x08C#12, 0xE82E#32), (0x090#12, 0x6001#32), (0x094#12, 0x0844#32), (0x098#12, 0x7001#32),
      (0x09C#12, 0xF82E#32)] := by decide
  have addresses : imageProgctrl Image.i2s = 0x00070007#32 := by decide
  rw [loaderScript_eq adjacent divisor (image ▸ fits) (image ▸ admissible), image, words, addresses]
  rfl

/-! ## A turn of the loader -/

theorem loaderAccess_of_script {s : State} {script : List (Offset × Word32)} {off : Offset} {v : Word32}
    (ok : loaderScript s.params = .ok script) (place : script[s.cpu.boot]? = some (off, v)) :
    loaderAccess s = .write off 32 v := by
  simp [loaderAccess, ok, place]

theorem loaderAccess_after_script {s : State} {script : List (Offset × Word32)}
    (ok : loaderScript s.params = .ok script) (past : script.length ≤ s.cpu.boot) : loaderAccess s = .none := by
  simp [loaderAccess, ok, List.getElem?_eq_none past]

theorem loaderAccess_of_error {s : State} {e : InitError} (error : loaderScript s.params = .error e) :
    loaderAccess s = .none := by
  simp [loaderAccess, error]

theorem loaderNext_of_write {s : State} {off : Offset} {width : Nat} {v : Word32}
    (access : loaderAccess s = .write off width v) : loaderNext s = { s.cpu with boot := s.cpu.boot + 1 } := by
  simp [loaderNext, access]

theorem loaderNext_of_none {s : State} (access : loaderAccess s = .none) : loaderNext s = s.cpu := by
  simp [loaderNext, access]

/-- A turn of the loader returns nothing and leaves the host agents where the loader's turn takes them. -/
theorem step_of_loaderTurn {s : State} (turn : s.nextInput = { rst := false, op := .loaderTurn })
    (notRead : ∀ off width, loaderAccess s ≠ .read off width) :
    ∃ t, step s = .next t ∧ t.rdata = none ∧ t.cpu = loaderNext s := by
  have noRst : s.nextInput.rst = false := by rw [turn]
  obtain ⟨t, e, cpu⟩ := step_cpu noRst
  refine ⟨t, e, rdata_of_notRead noRst e ?_, ?_⟩
  · rwa [turn, accessOf]
  · rw [cpu, turn, cpuAfter]

/-- Settles O56: the loader's access is the write at its place, or none after the last; either way it returns nothing.
-/
theorem loaderTurnPerformsItsScript : Obligations.LoaderTurnPerformsItsScript := by
  intro s script turn ok
  have access : accessOf s.nextInput.op s = loaderAccess s := by rw [turn, accessOf]
  refine ⟨fun off v place => ?_, fun past => ?_⟩
  · have write := loaderAccess_of_script ok place
    obtain ⟨t, e, value, cpu⟩ := step_of_loaderTurn turn (by simp [write])
    exact ⟨access.trans write, t, e, value, cpu.trans (loaderNext_of_write write)⟩
  · have noAccess := loaderAccess_after_script ok past
    obtain ⟨t, e, value, cpu⟩ := step_of_loaderTurn turn (by simp [noAccess])
    exact ⟨access.trans noAccess, t, e, value, cpu.trans (loaderNext_of_none noAccess)⟩

/-! ## Initialisation errors (R287) -/

/-- A reachable word that is not admitted makes the image inadmissible. -/
theorem not_imageAdmissible {g : Image} {a : ImemAddr} {w : Word16} (reachable : a ∈ imageReachable g)
    (word : g.words[a.toNat]? = some w) (illegal : admitted w = false) : ¬ imageAdmissible g = true := by
  intro admissible
  have atA := List.all_eq_true.1 admissible a reachable
  simp [word, illegal] at atA

/-- A cycle with no access at the port leaves the configuration and IMEM alone. -/
theorem step_of_noAccess {s : State} (noRst : s.nextInput.rst = false) (access : accessOf s.nextInput.op s = .none) :
    ∃ t, step s = .next t ∧ t.regs = s.regs ∧ t.imem = s.imem ∧ t.cpu = cpuAfter s.nextInput.op s := by
  obtain ⟨u, -, turn, e⟩ := step_split s noRst
  rw [portStep, accessOf_begin, access, busStep, cpuAfter_begin] at e
  exact ⟨_, e, turn.frame.regs, turn.frame.imem, rfl⟩

/-- Settles O57: a script would mean that every check passed, so there is none, and the loader's turn is no access. -/
theorem initialisationErrorNeverStartsTheBlock : Obligations.InitialisationErrorNeverStartsTheBlock := by
  intro s turn error
  have noRst : s.nextInput.rst = false := by rw [turn]
  have noAccess : loaderAccess s = .none := by
    cases script : loaderScript s.params with
    | error e => exact loaderAccess_of_error script
    | ok writes =>
      obtain ⟨adjacent, ⟨d, divisor⟩, fits, admissible⟩ := checks_of_loaderScript script
      rcases error with large | ⟨a, reachable, w, word, illegal⟩ | apart | ⟨e, failed⟩
      · simp only [Image.fits, decide_eq_true_eq] at fits
        omega
      · exact absurd admissible (not_imageAdmissible reachable word illegal)
      · simp only [PinBinding.adjacent, beq_iff_eq] at adjacent
        exact absurd adjacent apart
      · simp [divisor] at failed
  have access : accessOf s.nextInput.op s = .none := by rw [turn, accessOf, noAccess]
  obtain ⟨t, e, regs, imem, cpu⟩ := step_of_noAccess noRst access
  refine ⟨access, t, e, regs, imem, ?_⟩
  rw [cpu, turn, cpuAfter, loaderNext_of_none noAccess]

end Sys2Proof.Machine

/-! The statement of spec/10_state.md R46: a timed cycle is a run of the untimed abstraction. The engine's part and
the access of a cycle both read the pre-state; in the abstraction one of them sees what the other did. Engine first
gives the timed post-state unless the access looks at a level that the engine has just lowered; then access first
does. -/

namespace Sys2Proof.Machine

/-! ## Runs of the abstraction -/

theorem UntimedRun.snoc {s t u : State} (run : UntimedRun s t) (last : UntimedMove t u) : UntimedRun s u := by
  induction run with
  | done s => exact .move s u u last (.done u)
  | move s t _ first _ ih => exact .move s t u first (ih last)

/-! ## What belongs to time does not matter to the engine -/

/-- An instruction does to the untimed state what it does to the state. -/
theorem Issued.exec_untimed {s t : State} {i : Instr} (h : Issued s i t) : exec i s.untimed = .next t.untimed := by
  cases h with
  | shift ss loaded => exact exec_outPins1_shift (s := s.untimed) ss loaded
  | pull ss v rest spent head => exact exec_outPins1_pull (s := s.untimed) ss spent head
  | stall ss spent empty => exact exec_outPins1_stall (s := s.untimed) ss spent empty
  | jump ss addr written => exact exec_jmpXDec_written (s := s.untimed) ss addr written
  | unwrittenX ss addr unwritten => exact exec_jmpXDec_unwritten (s := s.untimed) ss addr unwritten
  | set ss imm => exact exec_setX ss imm s.untimed

/-- The engine's part of a cycle is at most one move. -/
theorem Turn.untimedRun {s u : State} (turn : Turn s u) : UntimedRun s.untimed u.untimed := by
  have running : s.tickDue = true → s.regs.en = true := fun tick => (dividerStep_of_tickDue s tick).2
  cases turn with
  | idle => exact .done _
  | badDivisor _ running zero => exact .move _ _ _ (.badDivisor s.untimed running zero) (.done _)
  | unwritten tick fetched =>
    exact .move _ _ _ (.engine s.untimed _ (running tick) (engineCycle_of_unwritten (s := s.untimed) fetched)) (.done _)
  | illegal w tick fetched =>
    exact .move _ _ _ (.engine s.untimed _ (running tick) (engineCycle_of_illegal (s := s.untimed) fetched)) (.done _)
  | issued i _ tick fetched ran =>
    exact .move _ _ _ (.engine s.untimed _ (running tick)
      ((engineCycle_of_instr (s := s.untimed) fetched).trans (issued_of_exec ran).exec_untimed)) (.done _)

/-! ## What the port's part looks at -/

/-- The level reaches the access: in FULL of a producer's poll (R231), or in a TXF write (R167, R168). A raw FSTAT read
returns it too, but what the port returned is left out of the untimed state. -/
def SeesLevel (op : BusOp) (s : State) : Prop :=
  op = .producerTurn ∨ ∃ v, accessOf op s = .write 0x010#12 32 v

/-- The accesses of a port that looks at the level. -/
theorem access_of_seesLevel {op : BusOp} {s : State} (sees : SeesLevel op s) :
    accessOf op s = .none ∨ accessOf op s = .read 0x00C#12 32 ∨ ∃ v, accessOf op s = .write 0x010#12 32 v := by
  rcases sees with rfl | write
  · cases wave : s.params.waveOk with
    | false => exact .inl (by simp [accessOf, producerAccess, wave])
    | true =>
      cases phase : s.cpu.phase with
      | poll => exact .inr (.inl (producerAccess_poll wave phase))
      | enqueue => exact .inr (.inr ⟨_, producerAccess_enqueue wave phase⟩)
  · exact .inr (.inr write)

theorem accessOf_congr (op : BusOp) {p q : State} (params : p.params = q.params) (cpu : p.cpu = q.cpu) :
    accessOf op p = accessOf op q := by
  cases op with
  | idle | read | write => rfl
  | loaderTurn => simp only [accessOf, loaderAccess, params, cpu]
  | producerTurn => exact producerAccess_congr params cpu

theorem cpuAfter_congr (op : BusOp) {p q : State} (params : p.params = q.params) (cpu : p.cpu = q.cpu)
    (level : op = .producerTurn → p.level = q.level) : cpuAfter op p = cpuAfter op q := by
  cases op with
  | idle | read | write => exact cpu
  | loaderTurn => simp only [cpuAfter, loaderNext, loaderAccess, params, cpu]
  | producerTurn => exact producerNext_congr params cpu (level rfl)

/-- A register write does to the untimed state what it does to the state. It looks at EN and, for TXF, at the level. -/
theorem writeReg_untimed {r : Reg} (v : Word32) {p q : State} (post : State) (params : p.params = q.params)
    (en : p.regs.en = q.regs.en) (level : r = .txf → p.level = q.level) :
    (writeReg r v p post).untimed = (writeReg r v q post.untimed).untimed := by
  cases r with
  | ctrl | fstat | unmapped => rfl
  | clkdiv | progctrl | imem =>
    simp only [writeReg, configWrite, en]
    split <;> rfl
  | txf =>
    simp only [writeReg, pushTxf, params, level rfl]
    split
    · rfl
    · split <;> rfl

/-- So does the port's part, from pre-states that agree in what it looks at. -/
theorem portStep_untimed {op : BusOp} {p q : State} (post : State) (params : p.params = q.params) (cpu : p.cpu = q.cpu)
    (en : p.regs.en = q.regs.en) (level : SeesLevel op p → p.level = q.level) :
    (portStep op p post).untimed = (portStep op q post.untimed).untimed := by
  have next := cpuAfter_congr op params cpu fun turn => level (.inl turn)
  rw [portStep, portStep, ← accessOf_congr op params cpu, ← next]
  cases access : accessOf op p with
  | none => rfl
  | read off width =>
    simp only [busStep]
    split <;> rfl
  | write off width v =>
    simp only [busStep]
    split
    next good =>
      refine writeReg_untimed v _ params en fun txf => level (.inr ⟨v, ?_⟩)
      rw [access, ((goodAccess_iff off width).1 good).1, (regAt_eq_txf off).1 txf]
    next => rfl

/-! ## Engine first -/

/-- Engine first, when the access does not see that the engine has changed the level. -/
theorem untimedRun_engine_first {s u : State} {op : BusOp} (turn : Turn s u)
    (level : SeesLevel op s.begin → s.level = u.level) :
    UntimedRun s.untimed (portStep op s.begin u).untimed := by
  have frame := turn.frame
  have en : s.regs.en = u.regs.en := (congrArg Regs.en frame.regs).symm
  rw [portStep_untimed (p := s.begin) (q := u.untimed) u frame.params.symm frame.cpu.symm en level]
  exact turn.untimedRun.snoc (.access u.untimed op)

/-! ## Access first -/

/-- What an autopull makes of a state (R126). -/
def State.pull (ss : SideSet) (v : Word32) (pc : ImemAddr) (s : State) : State :=
  ((s.issue ss).popFifo.shiftOut v 0#6).goto pc

/-- The engine's part lowers the level only by an autopull. -/
theorem Turn.pull_or_level {s u : State} (turn : Turn s u) :
    s.level = u.level ∨ ∃ ss v, s.tickDue = true ∧ s.fetch = .instr (.outPins1 ss) ∧ s.eng.osrCount = 32#6 ∧
      (∃ rest, s.fifo = v :: rest) ∧ u = (s.begin.setDivAcc s.nextDivAcc).pull ss v s.nextPc := by
  cases turn with
  | idle | badDivisor | unwritten | illegal => exact .inl rfl
  | issued i _ tick fetched ran =>
    cases issued_of_exec ran with
    | shift | stall | jump | unwrittenX | set => exact .inl rfl
    | pull ss v rest spent head => exact .inr ⟨ss, v, tick, fetched, spent, ⟨rest, head⟩, rfl⟩

/-- The port's part commutes with an autopull when it looks at nothing but the level: a word pushed behind the head
stays when the head is taken. It leaves alone what the engine's part looks at. -/
theorem portStep_pull {op : BusOp} {s post : State} (sees : SeesLevel op s) (ss : SideSet) (v : Word32) (pc : ImemAddr)
    (head : post.fifo ≠ []) :
    portStep op s.begin (post.pull ss v pc) = (portStep op s.begin post).pull ss v pc ∧
      (portStep op s.begin post).eng = post.eng ∧ (portStep op s.begin post).regs = post.regs ∧
      (portStep op s.begin post).imem = post.imem := by
  simp only [portStep, accessOf_begin]
  rcases access_of_seesLevel sees with access | access | ⟨w, access⟩ <;> rw [access]
  · exact ⟨rfl, rfl, rfl, rfl⟩
  · have good : goodAccess 0x00C#12 32 = true := by decide
    rw [busStep_read _ _ good, busStep_read _ _ good]
    exact ⟨rfl, rfl, rfl, rfl⟩
  · have good : goodAccess 0x010#12 32 = true := by decide
    rw [busStep_write _ _ _ good, busStep_write _ _ _ good, (regAt_eq_txf _).2 rfl]
    simp only [writeReg, pushTxf]
    split
    · have behind : post.fifo.tail ++ [w] = (post.fifo ++ [w]).tail := (List.tail_append_of_ne_nil head).symm
      simp [State.pull, State.pushFifo, State.popFifo, State.goto, State.shiftOut, State.issue, State.setCpu, behind]
    · split <;> exact ⟨rfl, rfl, rfl, rfl⟩

/-- Access first, when the engine takes a word in the cycle and the access looks at the level. -/
theorem untimedRun_access_first {s : State} {ss : SideSet} {v : Word32} (sees : SeesLevel s.nextInput.op s)
    (tick : s.tickDue = true) (fetched : s.fetch = .instr (.outPins1 ss)) (spent : s.eng.osrCount = 32#6)
    (head : ∃ rest, s.fifo = v :: rest) :
    UntimedRun s.untimed
      (portStep s.nextInput.op s.begin ((s.begin.setDivAcc s.nextDivAcc).pull ss v s.nextPc)).untimed := by
  obtain ⟨rest, head⟩ := head
  have running := (dividerStep_of_tickDue s tick).2
  have nonempty : (s.begin.setDivAcc s.nextDivAcc).fifo ≠ [] := by simp [head]
  obtain ⟨commutes, eng, regs, imem⟩ := portStep_pull sees ss v s.nextPc nonempty
  have fifo := portStep_fifo s (s.begin.setDivAcc s.nextDivAcc)
  have first : UntimedMove s.untimed (portStep s.nextInput.op s.begin (s.begin.setDivAcc s.nextDivAcc)).untimed := by
    rw [portStep_untimed (p := s.begin) (q := s.untimed) _ rfl rfl rfl fun _ => rfl]
    exact .access s.untimed s.nextInput.op
  rw [commutes]
  generalize portStep s.nextInput.op s.begin (s.begin.setDivAcc s.nextDivAcc) = accessed at *
  have samePc : accessed.nextPc = s.nextPc := by
    simp only [State.nextPc, eng, regs]
    rfl
  have sameFetch : accessed.fetch = s.fetch := by
    simp only [State.fetch, eng, imem]
    rfl
  have pulled : Issued accessed (.outPins1 ss) (accessed.pull ss v s.nextPc) :=
    samePc ▸ .pull ss v (rest ++ (acceptedWord s).toList) (eng ▸ spent) (by simpa [head] using fifo)
  have cycle : engineCycle accessed.untimed = .next (accessed.pull ss v s.nextPc).untimed :=
    (engineCycle_of_instr (s := accessed.untimed) (sameFetch.trans fetched)).trans pulled.exec_untimed
  have runs : accessed.regs.en = true := (congrArg Regs.en regs).trans running
  exact .move _ _ _ first (.move _ _ _ (.engine accessed.untimed _ runs cycle) (.done _))

/-- Settles O58: access first when the engine takes a word and the access looks at the level, and engine first
otherwise. -/
theorem everyCycleIsAnUntimedRun : Obligations.EveryCycleIsAnUntimedRun := by
  intro s t _ noRst h
  obtain ⟨u, -, turn, rfl, -⟩ := parts_of_step noRst h
  rcases turn.pull_or_level with level | ⟨ss, v, tick, fetched, spent, head, rfl⟩
  · exact untimedRun_engine_first turn fun _ => level
  · by_cases sees : SeesLevel s.nextInput.op s
    · exact untimedRun_access_first sees tick fetched spent head
    · refine untimedRun_engine_first turn fun seesBegin => absurd ?_ sees
      rwa [SeesLevel, accessOf_begin] at seesBegin

end Sys2Proof.Machine
